-- ==== Sys2Proof/Word.lean ====
section
/-! DEFINITION. The widths of DDX's data (00_scope.md R10, R13, R19; 10_state.md R41, R43, R49). -/

namespace Sys2Proof

/-- A byte, the smallest piece the host port's layout distinguishes (20_memory.md R83). -/
abbrev Byte := BitVec 8

/-- A word register, a DMEM word and a binary64 pattern: 64 bits (R10 `XLEN_W`). -/
abbrev Word := BitVec 64

/-- An instruction word, K, a host-port datum: 32 bits (R10 `ILEN`, `KLEN`; R86). -/
abbrev Half := BitVec 32

/-- The five sticky flags, NX in bit 0 up to NV in bit 4 (10_state.md R49). -/
abbrev Flags := BitVec 5

/-- A word register number, 0..15 (R10 `NW`). -/
abbrev WReg := Fin 16

/-- A DD register number, 0..7 (R10 `ND`). -/
abbrev DReg := Fin 8

/-- A double-double: an ordered pair of binary64 words representing hi + lo (R19, R43). -/
structure DD where
  hi : Word
  lo : Word
deriving DecidableEq, Repr

/-- The two variants of a pipeline step: `.P` for exp(+x²), `.M` for exp(−x²) (30_encoding.md R125). -/
inductive Variant where
  | P
  | M
deriving DecidableEq, Repr

end Sys2Proof
end

