-- ==== Sys2Proof/Config.lean ====
section
/-! DEFINITION. What an implementation fixes (00_scope.md R10) and the one value the spec leaves free. -/

namespace Sys2Proof

/-- IMEM holds 256 words (R10 `IMEM_WORDS`). -/
def Config.imemWords : Nat := 256

/-- DMEM holds 256 words (R10 `DMEM_WORDS`). -/
def Config.dmemWords : Nat := 256

/-- The five coefficients of one polynomial, highest degree first (10_state.md R63). Their values are
the OPEN parameters `POLY_P` and `POLY_M`: they stand in `State`, and R63's default stands in
`State.reset` (log 4). -/
abbrev Config.Poly := Vector Word 5

/-- FREE VALUE (log 10). The word, with the flags raised, that EXPX2 and EXPMX2 return from their last
step when the mantissa M.hi is no normal number. R270 gives its rescale no meaning there, R290 says
the instruction takes no fault, and R295(b) says the default coefficients never lead there. It is a
function of the variant, of M.hi and of m. -/
opaque Config.rescaleOutside : Variant → Word → Nat → Word × Flags

end Sys2Proof
end

