-- ==== Sys2Proof/Machine/Flags.lean ====
section
/-! DEFINITION. The sticky flags and the accumulation of the flags an instruction raises
(00_scope.md R15; 10_state.md R49, R50). -/

namespace Sys2Proof.Machine

/-- Inexact, bit 0 (R49). -/
def flagNX : Flags := 0b00001#5
/-- Underflow, bit 1 (R49). -/
def flagUF : Flags := 0b00010#5
/-- Overflow, bit 2 (R49). -/
def flagOF : Flags := 0b00100#5
/-- Division by zero, bit 3 (R49). -/
def flagDZ : Flags := 0b01000#5
/-- Invalid operation, bit 4 (R49). -/
def flagNV : Flags := 0b10000#5

/-- The flag, or none of them, as a condition holds. -/
def flagIf (c : Bool) (f : Flags) : Flags := if c then f else 0

/-- A result together with the flags raised on the way to it: what the accumulator `acc` of R15 has
gathered. -/
structure Raised (α : Type) where
  val : α
  flags : Flags
deriving DecidableEq, Repr

/-- A result that raises nothing. -/
def Raised.quiet {α : Type} (v : α) : Raised α := ⟨v, 0⟩

/-- One computation after another: the second sees the first's result, and the flags are OR'd (R15). -/
def Raised.andThen {α β : Type} (x : Raised α) (f : α → Raised β) : Raised β :=
  match x with
  | ⟨v, fx⟩ =>
    match f v with
    | ⟨r, fr⟩ => ⟨r, fx ||| fr⟩

/-- `raiseflags(F)` of R15, before a computation. -/
def Raised.also {α : Type} (f : Flags) (x : Raised α) : Raised α := ⟨x.val, f ||| x.flags⟩

end Sys2Proof.Machine
end

