-- ==== Sys2Proof/Machine/Float.lean ====
section
/-! DEFINITION. IEEE 754 binary64: the layout (00_scope.md R13), the rounding RN (R14) and the native
primitives (R16 to R18). Values are exact integers in units of 2^−1074, the value of the least
subnormal, until RN rounds them. -/

namespace Sys2Proof.Machine

/-- The sign, bit 63 (R13). -/
def signBit (a : Word) : Bool := a.getLsbD 63

/-- The biased exponent, bits 62:52 (R13). -/
def expField (a : Word) : Nat := (a.extractLsb' 52 11).toNat

/-- The fraction, bits 51:0 (R13). -/
def fracField (a : Word) : Nat := (a.extractLsb' 0 52).toNat

/-- A NaN: exponent 2047, fraction nonzero (R13). -/
def isNaN (a : Word) : Bool := expField a == 2047 && fracField a != 0

/-- A signalling NaN: a NaN with bit 51 clear (R13). -/
def isSNaN (a : Word) : Bool := isNaN a && !a.getLsbD 51

/-- ±∞: exponent 2047, fraction 0 (R13). -/
def isInf (a : Word) : Bool := expField a == 2047 && fracField a == 0

/-- ±0: exponent 0, fraction 0 (R13). -/
def isZero (a : Word) : Bool := expField a == 0 && fracField a == 0

/-- The magnitude of a finite pattern in units of 2^−1074 (R13): f for exponent 0, else
(2^52 + f)·2^(e−1). For ±∞ it is 2^2098, above every finite magnitude. -/
def magUnits (a : Word) : Nat :=
  if expField a = 0 then fracField a else (2 ^ 52 + fracField a) * 2 ^ (expField a - 1)

/-- `val(a)` of R13 in units of 2^−1074. -/
def valUnits (a : Word) : Int := if signBit a then -(magUnits a : Int) else magUnits a

/-- A pattern from its sign and its 63 magnitude bits. -/
def signed (neg : Bool) (mag : Nat) : Word :=
  (if neg then 0x8000000000000000#64 else 0) ||| BitVec.ofNat 64 mag

/-- ±0. -/
def zeroOf (neg : Bool) : Word := signed neg 0

/-- ±∞. -/
def infOf (neg : Bool) : Word := signed neg 0x7FF0000000000000

/-- The default NaN (R17). -/
def defaultNaN : Word := 0x7FF8000000000000#64

/-- A NaN quieted: bit 51 set, sign and other payload bits kept (R17). -/
def quietNaN (a : Word) : Word := a ||| 0x0008000000000000#64

/-- `FNEG`: flips bit 63, of a NaN too, and raises nothing (R16). -/
def fneg (a : Word) : Word := a ^^^ 0x8000000000000000#64

/-! ### Rounding (R14) -/

/-- The integer nearest to num/den, ties to even. -/
def nearestEven (num den : Nat) : Nat :=
  let q := num / den
  let r := num % den
  if 2 * r < den then q
  else if den < 2 * r then q + 1
  else q + q % 2

/-- num/den rounded to 53 significant bits, or to an integer where num/den is below 2^52: the
significand m and the exponent e of m·2^e. -/
def round53 (num den : Nat) : Nat × Nat :=
  let e := Nat.log2 (num / den) - 52
  (nearestEven num (den * 2 ^ e), e)

/-- Tininess after rounding (R14): num/den, in units of 2^−1074, rounded to 53 significant bits with an
unbounded exponent is below 2^−1022. The scale by 2^n gives every significand its 53 bits. -/
def isTiny (num den : Nat) : Bool :=
  let n := Nat.log2 den + 53
  let (m, e) := round53 (num * 2 ^ n) den
  m * 2 ^ e < 2 ^ 52 * 2 ^ n

/-- `RN(v)` of R14, for v of sign `neg` and nonzero magnitude num/den in units of 2^−1074. The pattern of
m·2^e, m ≤ 2^53, is e·2^52 + m for subnormal and normal results alike. -/
def roundRN (neg : Bool) (num den : Nat) : Raised Word :=
  let (m, e) := round53 num den
  let mag := e * 2 ^ 52 + m
  if 0x7FF0000000000000 ≤ mag then ⟨infOf neg, flagOF ||| flagNX⟩
  else if m * 2 ^ e * den = num then .quiet (signed neg mag)
  else ⟨signed neg mag, flagIf (isTiny num den) flagUF ||| flagNX⟩

/-- `RN` of an exact sum v = num/den, where an exact zero has the sign `zneg` (R16). -/
def roundSum (zneg : Bool) (num : Int) (den : Nat) : Raised Word :=
  if num = 0 then .quiet (zeroOf zneg) else roundRN (num < 0) num.natAbs den

/-! ### NaN operands (R17) -/

/-- NV where some operand is a signalling NaN (R17, R18). -/
def snanFlag (ops : List Word) : Flags := flagIf (ops.any isSNaN) flagNV

/-- R17: an operation with a NaN operand returns the first one quieted; otherwise it goes on. -/
def withNaN (ops : List Word) (otherwise : Raised Word) : Raised Word :=
  match ops.find? isNaN with
  | some n => ⟨quietNaN n, snanFlag ops⟩
  | none => otherwise

/-- An invalid operation on operands that are no NaNs (R16, R17). -/
def invalid : Raised Word := ⟨defaultNaN, flagNV⟩

/-! ### Native primitives (R16) -/

/-- `FADD` on operands that are no NaNs. An exact zero sum is +0, but for two zeros of one sign. -/
def addNumbers (a b : Word) : Raised Word :=
  if isInf a then
    if isInf b && signBit a != signBit b then invalid else .quiet a
  else if isInf b then .quiet b
  else roundSum (signBit a && signBit b) (valUnits a + valUnits b) 1

/-- `FADD(a, b)`: RN(val(a) + val(b)). -/
def fadd (a b : Word) : Raised Word := withNaN [a, b] (addNumbers a b)

/-- `FSUB(a, b)`: RN(val(a) − val(b)). A NaN `b` is returned with its own sign (R17). -/
def fsub (a b : Word) : Raised Word := withNaN [a, b] (addNumbers a (fneg b))

/-- `FMUL(a, b)`: RN(val(a)·val(b)). -/
def fmul (a b : Word) : Raised Word :=
  let neg := signBit a ^^ signBit b
  withNaN [a, b] <|
    if isInf a || isInf b then
      if isZero a || isZero b then invalid else .quiet (infOf neg)
    else if isZero a || isZero b then .quiet (zeroOf neg)
    else roundRN neg (magUnits a * magUnits b) (2 ^ 1074)

/-- `FDIV(a, b)`: RN(val(a)/val(b)). A nonzero finite value over ±0 raises DZ. -/
def fdiv (a b : Word) : Raised Word :=
  let neg := signBit a ^^ signBit b
  withNaN [a, b] <|
    if isInf a then
      if isInf b then invalid else .quiet (infOf neg)
    else if isInf b then .quiet (zeroOf neg)
    else if isZero b then
      if isZero a then invalid else ⟨infOf neg, flagDZ⟩
    else if isZero a then .quiet (zeroOf neg)
    else roundRN neg (magUnits a * 2 ^ 1074) (magUnits b)

/-- 0·∞ or ∞·0. -/
def zeroTimesInf (a b : Word) : Bool := (isZero a && isInf b) || (isInf a && isZero b)

/-- `FMA` on operands that are no NaNs, for a product that is no 0·∞: val(a)·val(b) + val(c) rounded once.
The product of a finite pair is exact in units of 2^−2148. -/
def fmaNumbers (a b c : Word) : Raised Word :=
  let neg := signBit a ^^ signBit b
  if isInf a || isInf b then
    if isInf c && neg != signBit c then invalid else .quiet (infOf neg)
  else if isInf c then .quiet c
  else roundSum (neg && signBit c) (valUnits a * valUnits b + valUnits c * 2 ^ 1074) (2 ^ 1074)

/-- `FMA(a, b, c)`: RN(val(a)·val(b) + val(c)), one rounding. 0·∞ raises NV, beside a quiet NaN `c`
too, which is then the result (R17). -/
def fma (a b c : Word) : Raised Word :=
  if zeroTimesInf a b then
    if isNaN c then ⟨quietNaN c, flagNV⟩ else invalid
  else withNaN [a, b, c] (fmaNumbers a b c)

/-! ### Comparisons (R18) -/

/-- A quiet comparison: false on a NaN, NV only on a signalling one. -/
def quietCompare (a b : Word) (holds : Bool) : Raised Bool :=
  ⟨!isNaN a && !isNaN b && holds, snanFlag [a, b]⟩

/-- `FLT(a, b)`. -/
def flt (a b : Word) : Raised Bool := quietCompare a b (valUnits a < valUnits b)

/-- `FEQ(a, b)`: +0 and −0 are equal. -/
def feq (a b : Word) : Raised Bool := quietCompare a b (valUnits a = valUnits b)

end Sys2Proof.Machine
end

