-- ==== Sys2Proof/Syntax.lean ====
section
/-! DEFINITION. The instructions of DDX: one constructor per row of the opcode map (30_encoding.md R127),
with the operands in assembler order (R134). -/

namespace Sys2Proof

inductive Instr where
  -- system (R320 to R325)
  | nop
  | halt
  | fclr
  | frd (wd : WReg)
  | krd (wd : WReg)
  | kwr (ws : WReg)
  -- data movement (R300 to R305); `addr` is a DMEM word address
  | ldw (wd : WReg) (addr : BitVec 8)
  | stw (ws : WReg) (addr : BitVec 8)
  | ldd (dd : DReg) (addr : BitVec 8)
  | std (ds : DReg) (addr : BitVec 8)
  | movw (wd ws : WReg)
  | dmov (dd ds : DReg)
  -- DD kernel (R203 to R218)
  | dneg (dd da : DReg)
  | dmk (dd : DReg) (wh wl : WReg)
  | ddec (wh wl : WReg) (da : DReg)
  | split (dd : DReg) (wa : WReg)
  | tsum (dd : DReg) (wa wb : WReg)
  | ftsum (dd : DReg) (wa wb : WReg)
  | daddw (dd da : DReg) (wb : WReg)
  | dadd (dd da db : DReg)
  | dsub (dd da db : DReg)
  | tprod (dd : DReg) (wa wb : WReg)
  | tsqr (dd : DReg) (wa : WReg)
  | dsqr (dd da : DReg)
  | dmulw (dd da : DReg) (wb : WReg)
  | dmul (dd da db : DReg)
  | ddivw (dd da : DReg) (wb : WReg)
  | ddiv (dd da db : DReg)
  -- exp pipeline (R261 to R270, R290)
  | rred (dd da : DReg)
  | epolyP (dd : DReg) (wa : WReg)
  | epolyM (dd : DReg) (wa : WReg)
  | tcombP (dd da : DReg)
  | tcombM (dd da : DReg)
  | lcorrP (dd : DReg) (wa : WReg)
  | lcorrM (dd : DReg) (wa : WReg)
  | rsclP (wd : WReg) (da : DReg)
  | rsclM (wd : WReg) (da : DReg)
  | expx2 (wd wa : WReg)
  | expmx2 (wd wa : WReg)
  -- control transfer (R310 to R312); `target` is an IMEM word address
  | jmp (target : BitVec 8)
  | bflt (wa wb : WReg) (target : BitVec 8)
  | bfeq (wa wb : WReg) (target : BitVec 8)
deriving DecidableEq, Repr

end Sys2Proof
end

