-- ==== Sys2Proof/WellFormed.lean ====
section
/-! DEFINITION. Which terms of `Instr` are instructions. Register numbers and addresses are in range by
their types (30_encoding.md R123, R124). The one check left is R132(d). -/

namespace Sys2Proof

/-- Every term is an instruction but DDEC with both destinations the same register (R132(d)). -/
def Instr.wf : Instr → Bool
  | .ddec wh wl _ => wh != wl
  | _ => true

end Sys2Proof
end

