-- ==== Sys2Proof/Decode.lean ====
section
/-! DEFINITION. Decoding and encoding of the 32-bit instruction word (30_encoding.md R120 to R132). -/

namespace Sys2Proof

/-- Why a word is an illegal encoding, one constructor per clause of R132. The hardware does not
record which: each takes the ILLEGAL fault. -/
inductive Illegal where
  /-- R132(a): the opcode is not assigned. -/
  | opcode
  /-- R132(b): a field that the format reserves is not zero. -/
  | reserved
  /-- R132(c): a D-typed field has bit 3 set. -/
  | dField
  /-- R132(d): DDEC writes one register twice. -/
  | ddecSame
deriving DecidableEq, Repr

/-- The fields of an instruction word (R121). -/
structure Fields where
  op : BitVec 8
  a : BitVec 4
  b : BitVec 4
  c : BitVec 4
  z : BitVec 4
  i : BitVec 8
deriving DecidableEq, Repr

/-- R121: OP 31:24, A 23:20, B 19:16, C 15:12, Z 11:8, I 7:0. -/
def fieldsOf (w : Half) : Fields where
  op := w.extractLsb' 24 8
  a := w.extractLsb' 20 4
  b := w.extractLsb' 16 4
  c := w.extractLsb' 12 4
  z := w.extractLsb' 8 4
  i := w.extractLsb' 0 8

/-- R131: the format's reserved fields must be zero. -/
def reservedZero (zero : Bool) (r : Except Illegal Instr) : Except Illegal Instr :=
  if zero then r else .error .reserved

/-- Format N of R122: A, B, C, Z and I are zero. -/
def formatN (f : Fields) (r : Except Illegal Instr) : Except Illegal Instr :=
  reservedZero (f.a == 0 && f.b == 0 && f.c == 0 && f.z == 0 && f.i == 0) r

/-- Format R1 of R122: B, C, Z and I are zero. -/
def formatR1 (f : Fields) (r : Except Illegal Instr) : Except Illegal Instr :=
  reservedZero (f.b == 0 && f.c == 0 && f.z == 0 && f.i == 0) r

/-- Format R2 of R122: C, Z and I are zero. -/
def formatR2 (f : Fields) (r : Except Illegal Instr) : Except Illegal Instr :=
  reservedZero (f.c == 0 && f.z == 0 && f.i == 0) r

/-- Format R3 of R122: Z and I are zero. -/
def formatR3 (f : Fields) (r : Except Illegal Instr) : Except Illegal Instr :=
  reservedZero (f.z == 0 && f.i == 0) r

/-- Format M of R122: B, C and Z are zero. -/
def formatM (f : Fields) (r : Except Illegal Instr) : Except Illegal Instr :=
  reservedZero (f.b == 0 && f.c == 0 && f.z == 0) r

/-- Format J of R122: A, B, C and Z are zero. -/
def formatJ (f : Fields) (r : Except Illegal Instr) : Except Illegal Instr :=
  reservedZero (f.a == 0 && f.b == 0 && f.c == 0 && f.z == 0) r

/-- Format BR of R122: A and Z are zero. -/
def formatBR (f : Fields) (r : Except Illegal Instr) : Except Illegal Instr :=
  reservedZero (f.a == 0 && f.z == 0) r

/-- R123: a W-typed field names the register of its number. -/
def wField (x : BitVec 4) (k : WReg → Except Illegal Instr) : Except Illegal Instr :=
  k ⟨x.toNat, x.isLt⟩

/-- R123: a D-typed field names the register of its bits 2:0, and its bit 3 must be 0. -/
def dField (x : BitVec 4) (k : DReg → Except Illegal Instr) : Except Illegal Instr :=
  if x.getLsbD 3 then .error .dField else k ⟨(x.extractLsb' 0 3).toNat, (x.extractLsb' 0 3).isLt⟩

/-- R132: every word is one row of R127 or illegal, with the clause that makes it so. -/
def decode (w : Half) : Except Illegal Instr :=
  let f := fieldsOf w
  match f.op.toNat with
  | 0x01 => formatN f (.ok .nop)
  | 0x02 => formatN f (.ok .halt)
  | 0x03 => formatN f (.ok .fclr)
  | 0x04 => formatR1 f (wField f.a fun d => .ok (.frd d))
  | 0x05 => formatR1 f (wField f.a fun d => .ok (.krd d))
  | 0x06 => formatR1 f (wField f.a fun s => .ok (.kwr s))
  | 0x10 => formatM f (wField f.a fun d => .ok (.ldw d f.i))
  | 0x11 => formatM f (wField f.a fun s => .ok (.stw s f.i))
  | 0x12 => formatM f (dField f.a fun d => .ok (.ldd d f.i))
  | 0x13 => formatM f (dField f.a fun s => .ok (.std s f.i))
  | 0x14 => formatR2 f (wField f.a fun d => wField f.b fun s => .ok (.movw d s))
  | 0x15 => formatR2 f (dField f.a fun d => dField f.b fun s => .ok (.dmov d s))
  | 0x20 => formatR2 f (dField f.a fun d => dField f.b fun a => .ok (.dneg d a))
  | 0x21 => formatR3 f (dField f.a fun d => wField f.b fun h => wField f.c fun l => .ok (.dmk d h l))
  | 0x22 => formatR3 f (wField f.a fun h => wField f.b fun l => dField f.c fun a =>
      if h = l then .error .ddecSame else .ok (.ddec h l a))
  | 0x23 => formatR2 f (dField f.a fun d => wField f.b fun a => .ok (.split d a))
  | 0x24 => formatR3 f (dField f.a fun d => wField f.b fun a => wField f.c fun b => .ok (.tsum d a b))
  | 0x25 => formatR3 f (dField f.a fun d => wField f.b fun a => wField f.c fun b => .ok (.ftsum d a b))
  | 0x26 => formatR3 f (dField f.a fun d => dField f.b fun a => wField f.c fun b => .ok (.daddw d a b))
  | 0x27 => formatR3 f (dField f.a fun d => dField f.b fun a => dField f.c fun b => .ok (.dadd d a b))
  | 0x28 => formatR3 f (dField f.a fun d => dField f.b fun a => dField f.c fun b => .ok (.dsub d a b))
  | 0x29 => formatR3 f (dField f.a fun d => wField f.b fun a => wField f.c fun b => .ok (.tprod d a b))
  | 0x2A => formatR2 f (dField f.a fun d => wField f.b fun a => .ok (.tsqr d a))
  | 0x2B => formatR2 f (dField f.a fun d => dField f.b fun a => .ok (.dsqr d a))
  | 0x2C => formatR3 f (dField f.a fun d => dField f.b fun a => wField f.c fun b => .ok (.dmulw d a b))
  | 0x2D => formatR3 f (dField f.a fun d => dField f.b fun a => dField f.c fun b => .ok (.dmul d a b))
  | 0x2E => formatR3 f (dField f.a fun d => dField f.b fun a => wField f.c fun b => .ok (.ddivw d a b))
  | 0x2F => formatR3 f (dField f.a fun d => dField f.b fun a => dField f.c fun b => .ok (.ddiv d a b))
  | 0x40 => formatR2 f (dField f.a fun d => dField f.b fun a => .ok (.rred d a))
  | 0x42 => formatR2 f (dField f.a fun d => wField f.b fun a => .ok (.epolyP d a))
  | 0x43 => formatR2 f (dField f.a fun d => wField f.b fun a => .ok (.epolyM d a))
  | 0x44 => formatR2 f (dField f.a fun d => dField f.b fun a => .ok (.tcombP d a))
  | 0x45 => formatR2 f (dField f.a fun d => dField f.b fun a => .ok (.tcombM d a))
  | 0x46 => formatR2 f (dField f.a fun d => wField f.b fun a => .ok (.lcorrP d a))
  | 0x47 => formatR2 f (dField f.a fun d => wField f.b fun a => .ok (.lcorrM d a))
  | 0x48 => formatR2 f (wField f.a fun d => dField f.b fun a => .ok (.rsclP d a))
  | 0x49 => formatR2 f (wField f.a fun d => dField f.b fun a => .ok (.rsclM d a))
  | 0x4A => formatR2 f (wField f.a fun d => wField f.b fun a => .ok (.expx2 d a))
  | 0x4B => formatR2 f (wField f.a fun d => wField f.b fun a => .ok (.expmx2 d a))
  | 0x60 => formatJ f (.ok (.jmp f.i))
  | 0x61 => formatBR f (wField f.b fun a => wField f.c fun b => .ok (.bflt a b f.i))
  | 0x62 => formatBR f (wField f.b fun a => wField f.c fun b => .ok (.bfeq a b f.i))
  | _ => .error .opcode

/-- The instruction a table row's word decodes to. Every DDX instruction is one 32-bit word moved whole
(R120, 20_memory.md R83), so the word is its own layout; the bits at `nbits` and above are 0. -/
def decodeTableWord (nbits w : Nat) : Option Instr :=
  (decode (BitVec.ofNat 32 (w % 2 ^ nbits))).toOption

/-- A word from its fields, Z zero (R121). -/
def wordOf (op : BitVec 8) (a b c : BitVec 4) (i : BitVec 8) : Half :=
  op ++ a ++ b ++ c ++ 0#4 ++ i

/-- The field that names a word register (R123). -/
def wCode (r : WReg) : BitVec 4 := BitVec.ofNat 4 r

/-- The field that names a DD register: bit 3 is 0 (R123). -/
def dCode (r : DReg) : BitVec 4 := BitVec.ofNat 4 r

/-- The instruction's word (R121, R122, R127). -/
def encode : Instr → Half
  | .nop => wordOf 0x01 0 0 0 0
  | .halt => wordOf 0x02 0 0 0 0
  | .fclr => wordOf 0x03 0 0 0 0
  | .frd d => wordOf 0x04 (wCode d) 0 0 0
  | .krd d => wordOf 0x05 (wCode d) 0 0 0
  | .kwr s => wordOf 0x06 (wCode s) 0 0 0
  | .ldw d n => wordOf 0x10 (wCode d) 0 0 n
  | .stw s n => wordOf 0x11 (wCode s) 0 0 n
  | .ldd d n => wordOf 0x12 (dCode d) 0 0 n
  | .std s n => wordOf 0x13 (dCode s) 0 0 n
  | .movw d s => wordOf 0x14 (wCode d) (wCode s) 0 0
  | .dmov d s => wordOf 0x15 (dCode d) (dCode s) 0 0
  | .dneg d a => wordOf 0x20 (dCode d) (dCode a) 0 0
  | .dmk d h l => wordOf 0x21 (dCode d) (wCode h) (wCode l) 0
  | .ddec h l a => wordOf 0x22 (wCode h) (wCode l) (dCode a) 0
  | .split d a => wordOf 0x23 (dCode d) (wCode a) 0 0
  | .tsum d a b => wordOf 0x24 (dCode d) (wCode a) (wCode b) 0
  | .ftsum d a b => wordOf 0x25 (dCode d) (wCode a) (wCode b) 0
  | .daddw d a b => wordOf 0x26 (dCode d) (dCode a) (wCode b) 0
  | .dadd d a b => wordOf 0x27 (dCode d) (dCode a) (dCode b) 0
  | .dsub d a b => wordOf 0x28 (dCode d) (dCode a) (dCode b) 0
  | .tprod d a b => wordOf 0x29 (dCode d) (wCode a) (wCode b) 0
  | .tsqr d a => wordOf 0x2A (dCode d) (wCode a) 0 0
  | .dsqr d a => wordOf 0x2B (dCode d) (dCode a) 0 0
  | .dmulw d a b => wordOf 0x2C (dCode d) (dCode a) (wCode b) 0
  | .dmul d a b => wordOf 0x2D (dCode d) (dCode a) (dCode b) 0
  | .ddivw d a b => wordOf 0x2E (dCode d) (dCode a) (wCode b) 0
  | .ddiv d a b => wordOf 0x2F (dCode d) (dCode a) (dCode b) 0
  | .rred d a => wordOf 0x40 (dCode d) (dCode a) 0 0
  | .epolyP d a => wordOf 0x42 (dCode d) (wCode a) 0 0
  | .epolyM d a => wordOf 0x43 (dCode d) (wCode a) 0 0
  | .tcombP d a => wordOf 0x44 (dCode d) (dCode a) 0 0
  | .tcombM d a => wordOf 0x45 (dCode d) (dCode a) 0 0
  | .lcorrP d a => wordOf 0x46 (dCode d) (wCode a) 0 0
  | .lcorrM d a => wordOf 0x47 (dCode d) (wCode a) 0 0
  | .rsclP d a => wordOf 0x48 (wCode d) (dCode a) 0 0
  | .rsclM d a => wordOf 0x49 (wCode d) (dCode a) 0 0
  | .expx2 d a => wordOf 0x4A (wCode d) (wCode a) 0 0
  | .expmx2 d a => wordOf 0x4B (wCode d) (wCode a) 0 0
  | .jmp t => wordOf 0x60 0 0 0 t
  | .bflt a b t => wordOf 0x61 0 (wCode a) (wCode b) t
  | .bfeq a b t => wordOf 0x62 0 (wCode a) (wCode b) t

/-! ### The opcode table (R126) -/

/-- One row of the opcode table: a word w encodes the row's instruction exactly when w & mask is the
pattern, and, for DDEC, its fields A and B differ (R126). -/
structure OpcodeRow where
  mnemonic : String
  pattern : Half
  mask : Half
deriving DecidableEq, Repr

/-- The 42 rows of opcode_table.json (R126, R127). -/
def opcodeTable : List OpcodeRow :=
  [⟨"NOP", 0x01000000#32, 0xFFFFFFFF#32⟩,
   ⟨"HALT", 0x02000000#32, 0xFFFFFFFF#32⟩,
   ⟨"FCLR", 0x03000000#32, 0xFFFFFFFF#32⟩,
   ⟨"FRD", 0x04000000#32, 0xFF0FFFFF#32⟩,
   ⟨"KRD", 0x05000000#32, 0xFF0FFFFF#32⟩,
   ⟨"KWR", 0x06000000#32, 0xFF0FFFFF#32⟩,
   ⟨"LDW", 0x10000000#32, 0xFF0FFF00#32⟩,
   ⟨"STW", 0x11000000#32, 0xFF0FFF00#32⟩,
   ⟨"LDD", 0x12000000#32, 0xFF8FFF00#32⟩,
   ⟨"STD", 0x13000000#32, 0xFF8FFF00#32⟩,
   ⟨"MOVW", 0x14000000#32, 0xFF00FFFF#32⟩,
   ⟨"DMOV", 0x15000000#32, 0xFF88FFFF#32⟩,
   ⟨"DNEG", 0x20000000#32, 0xFF88FFFF#32⟩,
   ⟨"DMK", 0x21000000#32, 0xFF800FFF#32⟩] ++
  [⟨"DDEC", 0x22000000#32, 0xFF008FFF#32⟩,
   ⟨"SPLIT", 0x23000000#32, 0xFF80FFFF#32⟩,
   ⟨"TSUM", 0x24000000#32, 0xFF800FFF#32⟩,
   ⟨"FTSUM", 0x25000000#32, 0xFF800FFF#32⟩,
   ⟨"DADDW", 0x26000000#32, 0xFF880FFF#32⟩,
   ⟨"DADD", 0x27000000#32, 0xFF888FFF#32⟩,
   ⟨"DSUB", 0x28000000#32, 0xFF888FFF#32⟩,
   ⟨"TPROD", 0x29000000#32, 0xFF800FFF#32⟩,
   ⟨"TSQR", 0x2A000000#32, 0xFF80FFFF#32⟩,
   ⟨"DSQR", 0x2B000000#32, 0xFF88FFFF#32⟩,
   ⟨"DMULW", 0x2C000000#32, 0xFF880FFF#32⟩,
   ⟨"DMUL", 0x2D000000#32, 0xFF888FFF#32⟩,
   ⟨"DDIVW", 0x2E000000#32, 0xFF880FFF#32⟩,
   ⟨"DDIV", 0x2F000000#32, 0xFF888FFF#32⟩] ++
  [⟨"RRED", 0x40000000#32, 0xFF88FFFF#32⟩,
   ⟨"EPOLY.P", 0x42000000#32, 0xFF80FFFF#32⟩,
   ⟨"EPOLY.M", 0x43000000#32, 0xFF80FFFF#32⟩,
   ⟨"TCOMB.P", 0x44000000#32, 0xFF88FFFF#32⟩,
   ⟨"TCOMB.M", 0x45000000#32, 0xFF88FFFF#32⟩,
   ⟨"LCORR.P", 0x46000000#32, 0xFF80FFFF#32⟩,
   ⟨"LCORR.M", 0x47000000#32, 0xFF80FFFF#32⟩,
   ⟨"RSCL.P", 0x48000000#32, 0xFF08FFFF#32⟩,
   ⟨"RSCL.M", 0x49000000#32, 0xFF08FFFF#32⟩,
   ⟨"EXPX2", 0x4A000000#32, 0xFF00FFFF#32⟩,
   ⟨"EXPMX2", 0x4B000000#32, 0xFF00FFFF#32⟩,
   ⟨"JMP", 0x60000000#32, 0xFFFFFF00#32⟩,
   ⟨"BFLT", 0x61000000#32, 0xFFF00F00#32⟩,
   ⟨"BFEQ", 0x62000000#32, 0xFFF00F00#32⟩]

/-- The mnemonic of an instruction in the opcode map (R127). -/
def Instr.mnemonic : Instr → String
  | .nop => "NOP"
  | .halt => "HALT"
  | .fclr => "FCLR"
  | .frd _ => "FRD"
  | .krd _ => "KRD"
  | .kwr _ => "KWR"
  | .ldw _ _ => "LDW"
  | .stw _ _ => "STW"
  | .ldd _ _ => "LDD"
  | .std _ _ => "STD"
  | .movw _ _ => "MOVW"
  | .dmov _ _ => "DMOV"
  | .dneg _ _ => "DNEG"
  | .dmk _ _ _ => "DMK"
  | .ddec _ _ _ => "DDEC"
  | .split _ _ => "SPLIT"
  | .tsum _ _ _ => "TSUM"
  | .ftsum _ _ _ => "FTSUM"
  | .daddw _ _ _ => "DADDW"
  | .dadd _ _ _ => "DADD"
  | .dsub _ _ _ => "DSUB"
  | .tprod _ _ _ => "TPROD"
  | .tsqr _ _ => "TSQR"
  | .dsqr _ _ => "DSQR"
  | .dmulw _ _ _ => "DMULW"
  | .dmul _ _ _ => "DMUL"
  | .ddivw _ _ _ => "DDIVW"
  | .ddiv _ _ _ => "DDIV"
  | .rred _ _ => "RRED"
  | .epolyP _ _ => "EPOLY.P"
  | .epolyM _ _ => "EPOLY.M"
  | .tcombP _ _ => "TCOMB.P"
  | .tcombM _ _ => "TCOMB.M"
  | .lcorrP _ _ => "LCORR.P"
  | .lcorrM _ _ => "LCORR.M"
  | .rsclP _ _ => "RSCL.P"
  | .rsclM _ _ => "RSCL.M"
  | .expx2 _ _ => "EXPX2"
  | .expmx2 _ _ => "EXPMX2"
  | .jmp _ => "JMP"
  | .bflt _ _ _ => "BFLT"
  | .bfeq _ _ _ => "BFEQ"

end Sys2Proof
end

