-- ==== Sys2Proof/Machine/Rom.lean ====
section
/-! DEFINITION. The constant ROM (10_state.md R60 to R63) and the ID constant (R58). Read-only and the same
after every reset. The polynomial coefficients are parameters: their defaults stand here, the values a
machine has stand in `State` (log 4). -/

namespace Sys2Proof.Machine

/-- The ID register's constant, ASCII "DDX" and version 1 (R58). -/
def romId : Half := 0x44445801#32

/-! ### Scalar constants (R62) -/

/-- `SPLIT_C`: 2^27, Veltkamp split scale. -/
def romSplitC : Word := 0x41A0000000000000#64
/-- `SHIFTER`: 1.5·2^52, round-to-integer constant. -/
def romShifter : Word := 0x4338000000000000#64
/-- `INV_L`: RN(32/ln2). -/
def romInvL : Word := 0x40471547652B82FE#64
/-- `L_HI`: RN(ln2/32) with significand bits 15:0 cleared (36 significant bits). -/
def romLHi : Word := 0x3F962E42FEFA0000#64
/-- `L_LO`: RN(ln2/32 − val(L_HI)). -/
def romLLo : Word := 0x3D2CF79ABC9E3B3A#64
/-- `TRIV_P`: exp(x²) returns 1.0 when y_hi < TRIV_P. -/
def romTrivP : Word := 0x3CA0000000000000#64
/-- `TRIV_M`: exp(−x²) returns 1.0 when y_hi < TRIV_M. -/
def romTrivM : Word := 0x3C90000000000000#64
/-- `OVF_P`: RN(ln(DBL_MAX)), DBL_MAX = (2−2^−52)·2^1023. -/
def romOvfP : Word := 0x40862E42FEFA39EF#64
/-- `UNF_M`: RN(1075·ln2). -/
def romUnfM : Word := 0x40874910D52D3052#64
/-- `RRED_MAX`: equal to UNF_M; RRED range limit. -/
def romRredMax : Word := 0x40874910D52D3052#64
/-- `TWO_M1022`: smallest normal power of two. -/
def romTwoM1022 : Word := 0x0010000000000000#64
/-- `ONE`: 1.0. -/
def romOne : Word := 0x3FF0000000000000#64
/-- `HALF`: 0.5. -/
def romHalf : Word := 0x3FE0000000000000#64
/-- `TWO`: 2.0. -/
def romTwo : Word := 0x4000000000000000#64

/-! ### Exponent tables (R61) -/

/-- `TAB_P`: 2^(j/32), j = 0..31, ascending. -/
def romTabP : List DD :=
  [⟨0x3FF0000000000000#64, 0x0000000000000000#64⟩,
   ⟨0x3FF059B0D3158574#64, 0x3C8D73E2A475B465#64⟩,
   ⟨0x3FF0B5586CF9890F#64, 0x3C98A62E4ADC610B#64⟩,
   ⟨0x3FF11301D0125B51#64, 0xBC96C51039449B3A#64⟩,
   ⟨0x3FF172B83C7D517B#64, 0xBC819041B9D78A76#64⟩,
   ⟨0x3FF1D4873168B9AA#64, 0x3C9E016E00A2643C#64⟩,
   ⟨0x3FF2387A6E756238#64, 0x3C99B07EB6C70573#64⟩,
   ⟨0x3FF29E9DF51FDEE1#64, 0x3C8612E8AFAD1255#64⟩] ++
  [⟨0x3FF306FE0A31B715#64, 0x3C86F46AD23182E4#64⟩,
   ⟨0x3FF371A7373AA9CB#64, 0xBC963AEABF42EAE2#64⟩,
   ⟨0x3FF3DEA64C123422#64, 0x3C8ADA0911F09EBC#64⟩,
   ⟨0x3FF44E086061892D#64, 0x3C489B7A04EF80D0#64⟩,
   ⟨0x3FF4BFDAD5362A27#64, 0x3C7D4397AFEC42E2#64⟩,
   ⟨0x3FF5342B569D4F82#64, 0xBC807ABE1DB13CAD#64⟩,
   ⟨0x3FF5AB07DD485429#64, 0x3C96324C054647AD#64⟩,
   ⟨0x3FF6247EB03A5585#64, 0xBC9383C17E40B497#64⟩] ++
  [⟨0x3FF6A09E667F3BCD#64, 0xBC9BDD3413B26456#64⟩,
   ⟨0x3FF71F75E8EC5F74#64, 0xBC816E4786887A99#64⟩,
   ⟨0x3FF7A11473EB0187#64, 0xBC841577EE04992F#64⟩,
   ⟨0x3FF82589994CCE13#64, 0xBC9D4C1DD41532D8#64⟩,
   ⟨0x3FF8ACE5422AA0DB#64, 0x3C96E9F156864B27#64⟩,
   ⟨0x3FF93737B0CDC5E5#64, 0xBC675FC781B57EBC#64⟩,
   ⟨0x3FF9C49182A3F090#64, 0x3C7C7C46B071F2BE#64⟩,
   ⟨0x3FFA5503B23E255D#64, 0xBC9D2F6EDB8D41E1#64⟩] ++
  [⟨0x3FFAE89F995AD3AD#64, 0x3C97A1CD345DCC81#64⟩,
   ⟨0x3FFB7F76F2FB5E47#64, 0xBC75584F7E54AC3B#64⟩,
   ⟨0x3FFC199BDD85529C#64, 0x3C811065895048DD#64⟩,
   ⟨0x3FFCB720DCEF9069#64, 0x3C7503CBD1E949DB#64⟩,
   ⟨0x3FFD5818DCFBA487#64, 0x3C82ED02D75B3707#64⟩,
   ⟨0x3FFDFC97337B9B5F#64, 0xBC91A5CD4F184B5C#64⟩,
   ⟨0x3FFEA4AFA2A490DA#64, 0xBC9E9C23179C2893#64⟩,
   ⟨0x3FFF50765B6E4540#64, 0x3C99D3E12DD8A18B#64⟩]

/-- `TAB_M`: 2^(−j/32), j = 0..31, descending. -/
def romTabM : List DD :=
  [⟨0x3FF0000000000000#64, 0x0000000000000000#64⟩,
   ⟨0x3FEF50765B6E4540#64, 0x3C89D3E12DD8A18B#64⟩,
   ⟨0x3FEEA4AFA2A490DA#64, 0xBC8E9C23179C2893#64⟩,
   ⟨0x3FEDFC97337B9B5F#64, 0xBC81A5CD4F184B5C#64⟩,
   ⟨0x3FED5818DCFBA487#64, 0x3C72ED02D75B3707#64⟩,
   ⟨0x3FECB720DCEF9069#64, 0x3C6503CBD1E949DB#64⟩,
   ⟨0x3FEC199BDD85529C#64, 0x3C711065895048DD#64⟩,
   ⟨0x3FEB7F76F2FB5E47#64, 0xBC65584F7E54AC3B#64⟩] ++
  [⟨0x3FEAE89F995AD3AD#64, 0x3C87A1CD345DCC81#64⟩,
   ⟨0x3FEA5503B23E255D#64, 0xBC8D2F6EDB8D41E1#64⟩,
   ⟨0x3FE9C49182A3F090#64, 0x3C6C7C46B071F2BE#64⟩,
   ⟨0x3FE93737B0CDC5E5#64, 0xBC575FC781B57EBC#64⟩,
   ⟨0x3FE8ACE5422AA0DB#64, 0x3C86E9F156864B27#64⟩,
   ⟨0x3FE82589994CCE13#64, 0xBC8D4C1DD41532D8#64⟩,
   ⟨0x3FE7A11473EB0187#64, 0xBC741577EE04992F#64⟩,
   ⟨0x3FE71F75E8EC5F74#64, 0xBC716E4786887A99#64⟩] ++
  [⟨0x3FE6A09E667F3BCD#64, 0xBC8BDD3413B26456#64⟩,
   ⟨0x3FE6247EB03A5585#64, 0xBC8383C17E40B497#64⟩,
   ⟨0x3FE5AB07DD485429#64, 0x3C86324C054647AD#64⟩,
   ⟨0x3FE5342B569D4F82#64, 0xBC707ABE1DB13CAD#64⟩,
   ⟨0x3FE4BFDAD5362A27#64, 0x3C6D4397AFEC42E2#64⟩,
   ⟨0x3FE44E086061892D#64, 0x3C389B7A04EF80D0#64⟩,
   ⟨0x3FE3DEA64C123422#64, 0x3C7ADA0911F09EBC#64⟩,
   ⟨0x3FE371A7373AA9CB#64, 0xBC863AEABF42EAE2#64⟩] ++
  [⟨0x3FE306FE0A31B715#64, 0x3C76F46AD23182E4#64⟩,
   ⟨0x3FE29E9DF51FDEE1#64, 0x3C7612E8AFAD1255#64⟩,
   ⟨0x3FE2387A6E756238#64, 0x3C89B07EB6C70573#64⟩,
   ⟨0x3FE1D4873168B9AA#64, 0x3C8E016E00A2643C#64⟩,
   ⟨0x3FE172B83C7D517B#64, 0xBC719041B9D78A76#64⟩,
   ⟨0x3FE11301D0125B51#64, 0xBC86C51039449B3A#64⟩,
   ⟨0x3FE0B5586CF9890F#64, 0x3C88A62E4ADC610B#64⟩,
   ⟨0x3FE059B0D3158574#64, 0x3C7D73E2A475B465#64⟩]

/-- The table entry of a variant for the index j, 0..31 (R61, 41_exp_pipeline.md R266). -/
def romTable (v : Variant) (j : Nat) : DD :=
  match v with
  | .P => romTabP.getD j ⟨0, 0⟩
  | .M => romTabM.getD j ⟨0, 0⟩

/-! ### Default polynomial coefficients (R63) -/

/-- R63's default contents of `POLY_P`, highest degree first. -/
def romPolyP : Config.Poly :=
  #v[0x3F56C16C16C16C17#64, 0x3F81111111111111#64, 0x3FA5555555555555#64, 0x3FC5555555555555#64, 0x3FE0000000000000#64]

/-- R63's default contents of `POLY_M`, highest degree first. -/
def romPolyM : Config.Poly :=
  #v[0x3F56C16C16C16C17#64, 0xBF81111111111111#64, 0x3FA5555555555555#64, 0xBFC5555555555555#64, 0x3FE0000000000000#64]

end Sys2Proof.Machine
end

