-- ==== Sys2Proof/Machine/State.lean ====
section
/-! DEFINITION. The state of DDX (10_state.md R40), the reasons a step can stop, and the state after
power-on reset (70_reset_and_hazards.md R500). -/

namespace Sys2Proof.Machine

/-- The four states of the core, exactly one at a time (R51). -/
inductive RunState where
  | idle
  | running
  | halted
  | faulted
deriving DecidableEq, Repr

/-- What CAUSE can hold: no fault, or one of the four architectural faults (R52, 60_exceptions.md R400). -/
inductive Cause where
  | none
  | fetch
  | illegal
  | misaligned
  | range
deriving DecidableEq, Repr

/-- One access of the host at a byte offset of its port (20_memory.md R86): its width in bits and, for a
write, the datum. -/
inductive HostAccess where
  | read (offset : BitVec 12) (bits : Nat)
  | write (offset : BitVec 12) (bits : Nat) (data : Half)
deriving DecidableEq, Repr

/-- What the outside world does at one step (log 6): nothing, so that the core moves; one access of the
host port; or a power-on reset. -/
inductive HostEvent where
  | idle
  | access (a : HostAccess)
  | powerOn
deriving DecidableEq, Repr

/-- A memory as the bytes that have been written, by rising byte address. A byte that is not listed has
never been written and has no value (20_memory.md R89; log 2, log 3). -/
abbrev Memory := List Host.Cell

/-- The state of DDX. `w` to `dmem` are R40's state; `polyP` and `polyM` are the ROM's parameters (R63);
`host` and `hostReply` are the model's own (log 6). The registers CTRL and ID and the rest of the ROM
hold nothing that can differ (log 5). -/
structure State where
  /-- W0..W15 (R41). -/
  w : Vector Word 16
  /-- D0..D7 (R43). -/
  d : Vector DD 8
  /-- K (R46). -/
  k : Half
  /-- PC (R47). -/
  pc : BitVec 9
  /-- FFLAGS (R49). -/
  fflags : Flags
  /-- STATUS (R51). -/
  status : RunState
  /-- CAUSE (R52). -/
  cause : Cause
  /-- EPC, bits 8:0 (R53). -/
  epc : BitVec 9
  /-- FINST (R54). -/
  finst : Half
  /-- IMEM (R80): byte i of word n is at 4n + i. -/
  imem : Memory
  /-- DMEM (R81): byte i of word n is at 8n + i. -/
  dmem : Memory
  /-- `POLY_P` of the constant ROM (R63). -/
  polyP : Config.Poly
  /-- `POLY_M` of the constant ROM (R63). -/
  polyM : Config.Poly
  /-- The model's own: what the outside world does at the steps to come (log 6). -/
  host : List HostEvent
  /-- The model's own: what the port returned to the host's last read (log 6). -/
  hostReply : Half
deriving DecidableEq, Repr

/-- Where the MODEL stops although the hardware goes on with a value the spec does not give (60_exceptions.md
R406). These are not DDX's faults: those are taken in a next state. -/
inductive Fault where
  /-- Raised by the fetch, and by a host read, of an IMEM word with a byte that nothing has written since
  power-on (R89, R406). Safe: nothing can be proved of what follows. -/
  | unwrittenImem (addr : Nat)
  /-- Raised by LDW, LDD and a host read of a DMEM word with a byte that nothing has written since power-on
  (R89, R406). Safe: nothing can be proved of what follows. -/
  | unwrittenDmem (addr : Nat)
deriving DecidableEq, Repr

/-- Where the machine has no move. -/
inductive Refusal where
  /-- An instruction without a meaning, by its mnemonic; raised by no arm of `exec`. Safe. -/
  | notModelled (mnemonic : String)
  /-- Raised by the host port: while the core runs, an access other than a STATUS read or a CTRL write
  (R87: "it is refused"). Safe. -/
  | hostAccessWhileRunning
  /-- Raised by the host port: an access not 32 bits wide or not at a multiple of 4 (R87). Safe. -/
  | hostAccessMalformed
deriving DecidableEq, Repr

/-- The outcomes of a step of DDX. -/
abbrev Out := Host.Outcome State Fault Refusal

/-- The state after power-on reset (R500) of a machine whose ROM holds these coefficients. W and D hold
zero, which the spec leaves unspecified (log 1); no byte of IMEM or DMEM has been written. -/
def State.powerOn (polyP polyM : Config.Poly) : State where
  w := Vector.replicate 16 0
  d := Vector.replicate 8 ⟨0, 0⟩
  k := 0
  pc := 0
  fflags := 0
  status := .idle
  cause := .none
  epc := 0
  finst := 0
  imem := []
  dmem := []
  polyP := polyP
  polyM := polyM
  host := []
  hostReply := 0

/-- The machine right after power-on reset, with R63's default coefficients and no host event to come. -/
def State.reset : State := State.powerOn romPolyP romPolyM

end Sys2Proof.Machine
end

