-- ==== Sys2Proof/Machine/Ops.lean ====
section
/-! DEFINITION. The named operations over memory and registers, the end of an instruction, taking a fault
(60_exceptions.md R402) and restarting after one (10_state.md R55). -/

namespace Sys2Proof.Machine

/-! ### Memory: bytes and little-endian groups of them (20_memory.md R83, R89) -/

/-- The canonical form: addresses strictly rising. No listed byte can equal what an unlisted one reads as,
for that is no value. -/
def Memory.wf : Memory → Bool
  | [] => true
  | [_] => true
  | (a, _) :: (b, y) :: m => decide (a < b) && Memory.wf ((b, y) :: m)

/-- Every listed address is below `bound`. -/
def Memory.within (bound : Nat) (m : Memory) : Bool := m.all fun c => c.1 < bound

/-- The byte at an address; none where nothing has written it. -/
def Memory.readByte : Memory → Nat → Option Byte
  | [], _ => none
  | (b, y) :: m, a => if a = b then some y else Memory.readByte m a

/-- Writes one byte, keeping the addresses rising. -/
def Memory.writeByte : Memory → Nat → Byte → Memory
  | [], a, x => [(a, x)]
  | (b, y) :: m, a, x =>
    if a < b then (a, x) :: (b, y) :: m
    else if a = b then (a, x) :: m
    else (b, y) :: Memory.writeByte m a x

/-- The number in the `n` bytes from `a` up, the lowest first; none unless all have been written. -/
def Memory.readLE (m : Memory) (a : Nat) : Nat → Option Nat
  | 0 => some 0
  | n + 1 =>
    match m.readByte a, Memory.readLE m (a + 1) n with
    | some y, some v => some (y.toNat + 256 * v)
    | _, _ => none

/-- Writes the low `n` bytes of a number from `a` up, the lowest first. -/
def Memory.writeLE (m : Memory) (a : Nat) : Nat → Nat → Memory
  | 0, _ => m
  | n + 1, v => Memory.writeLE (m.writeByte a (BitVec.ofNat 8 v)) (a + 1) n (v / 256)

/-! ### IMEM and DMEM by word (R80, R81) -/

/-- The byte address of a DMEM word: 8 bytes a word (R81, R86). -/
def dmemByte (a : Nat) : Nat := 8 * a

/-- The byte address of an IMEM word: 4 bytes a word (R80, R86). -/
def imemByte (a : Nat) : Nat := 4 * a

/-- `MemRead(a, 1)` of 00_scope.md R12. -/
def State.dmemRead (s : State) (a : Nat) : Option Word :=
  (s.dmem.readLE (dmemByte a) 8).map (BitVec.ofNat 64)

/-- `MemWrite(a, 1, v)` of R12. -/
def State.dmemWrite (s : State) (a : Nat) (v : Word) : State :=
  { s with dmem := s.dmem.writeLE (dmemByte a) 8 v.toNat }

/-- `IMemRead(a)` of R12. -/
def State.imemRead (s : State) (a : Nat) : Option Half :=
  (s.imem.readLE (imemByte a) 4).map (BitVec.ofNat 32)

/-- The host's write of one IMEM word (20_memory.md R80). -/
def State.imemWrite (s : State) (a : Nat) (v : Half) : State :=
  { s with imem := s.imem.writeLE (imemByte a) 4 v.toNat }

/-! ### Registers (10_state.md R41 to R46) -/

/-- `W[i]`. -/
def State.readW (s : State) (r : WReg) : Word := s.w[r]

/-- `W[i] <- v`. W0 is an ordinary register (R41). -/
def State.writeW (s : State) (r : WReg) (v : Word) : State := { s with w := s.w.set r v }

/-- `D[i]`. -/
def State.readD (s : State) (r : DReg) : DD := s.d[r]

/-- `D[i] <- (h, l)`: both words together, as they are (R43, R44). -/
def State.writeD (s : State) (r : DReg) (v : DD) : State := { s with d := s.d.set r v }

/-- `K <- v`. -/
def State.writeK (s : State) (v : Half) : State := { s with k := v }

/-! ### The end of an instruction (R15, R48) -/

/-- `FFLAGS <- FFLAGS | acc` (00_scope.md R15). -/
def State.raiseFlags (s : State) (f : Flags) : State := { s with fflags := s.fflags ||| f }

/-- `PC <- pc + 1`, in 9 bits (R48). -/
def State.advance (s : State) : State := { s with pc := s.pc + 1 }

/-- `PC <- zext_9(imm8)` (R48, 30_encoding.md R124). -/
def State.jumpTo (s : State) (target : BitVec 8) : State := { s with pc := target.setWidth 9 }

/-- Completion of an instruction that writes one word register and raises flags. -/
def completeW (s : State) (r : WReg) (x : Raised Word) : Out :=
  .next ((s.writeW r x.val).raiseFlags x.flags).advance

/-- Completion of an instruction that writes one DD register and raises flags. -/
def completeD (s : State) (r : DReg) (x : Raised DD) : Out :=
  .next ((s.writeD r x.val).raiseFlags x.flags).advance

/-! ### Faults and run control -/

/-- Fault entry (R402), all at once and nothing else: CAUSE the cause, EPC the PC, FINST the word, STATUS
FAULTED. PC keeps its value; no flag of the faulting instruction reaches FFLAGS (R403). -/
def State.takeFault (s : State) (c : Cause) (word : Half) : State :=
  { s with cause := c, epc := s.pc, finst := word, status := .faulted }

/-- The fault of an instruction: FINST is its word (R400, R402), which its decoding fixes (log 9). -/
def faultOf (s : State) (c : Cause) (i : Instr) : Out := .next (s.takeFault c (encode i))

/-- START (R55), the only way back to RUNNING and the host's return from a fault (60_exceptions.md R407):
CAUSE, EPC and FINST become 0, STATUS RUNNING, and the rest is kept. -/
def State.start (s : State) : State :=
  { s with cause := .none, epc := 0, finst := 0, status := .running }

/-- SRESET (70_reset_and_hazards.md R501): K, PC, FFLAGS, STATUS, CAUSE, EPC and FINST become 0; W, D, IMEM
and DMEM are kept. -/
def State.softReset (s : State) : State :=
  { s with k := 0, pc := 0, fflags := 0, status := .idle, cause := .none, epc := 0, finst := 0 }

/-- A power-on reset (R500) in the middle of things: the ROM and the host's events to come are no state of
the core and stay (log 18). -/
def State.powerCycle (s : State) : State := { State.powerOn s.polyP s.polyM with host := s.host }

end Sys2Proof.Machine
end

