-- ==== Sys2Proof/Machine/Operands.lean ====
section
/-! DEFINITION. The operand forms that are more than a register's value: DMEM addresses, the two fields of
K, the coefficients of a variant. -/

namespace Sys2Proof.Machine

/-- The DMEM word address of format M: `zext_8(I)`, never scaled (30_encoding.md R124). -/
def dmemAddress (addr : BitVec 8) : Nat := addr.toNat

/-- An odd address, which LDD and STD refuse (20_memory.md R85). -/
def isOdd (addr : BitVec 8) : Bool := addr.getLsbD 0

/-- j = K[4:0], the table index, 0..31 (10_state.md R46). -/
def indexOf (k : Half) : Nat := (k.extractLsb' 0 5).toNat

/-- m = K[31:5], the scaled quotient (R46). -/
def quotientOf (k : Half) : Nat := (k.extractLsb' 5 27).toNat

/-- The coefficients of a variant (30_encoding.md R125, 41_exp_pipeline.md R263). -/
def State.poly (s : State) (v : Variant) : Config.Poly :=
  match v with
  | .P => s.polyP
  | .M => s.polyM

/-- A word's sign as a variant takes it: r for `.P`, −r for `.M` (R263, R267). -/
def signFor (v : Variant) (r : Word) : Word :=
  match v with
  | .P => r
  | .M => fneg r

end Sys2Proof.Machine
end

