-- ==== Sys2Proof/Machine/Control.lean ====
section
/-! DEFINITION. Control transfer (42_data_control.md R310 to R312). -/

namespace Sys2Proof.Machine

/-- A conditional branch on a quiet comparison: the target when it holds, else the next word. -/
def branchOn (c : Raised Bool) (target : BitVec 8) (s : State) : Out :=
  let t := s.raiseFlags c.flags
  .next (if c.val then t.jumpTo target else t.advance)

/-- JMP (R310). -/
def execJmp (target : BitVec 8) (s : State) : Out := .next (s.jumpTo target)

/-- BFLT (R311). -/
def execBflt (wa wb : WReg) (target : BitVec 8) (s : State) : Out :=
  branchOn (flt (s.readW wa) (s.readW wb)) target s

/-- BFEQ (R312). -/
def execBfeq (wa wb : WReg) (target : BitVec 8) (s : State) : Out :=
  branchOn (feq (s.readW wa) (s.readW wb)) target s

end Sys2Proof.Machine
end

