-- ==== Sys2Proof/Machine/DataMove.lean ====
section
/-! DEFINITION. Loads, stores and moves (42_data_control.md R300 to R305). Every datum is copied bit for bit. -/

namespace Sys2Proof.Machine

/-- LDW (R300). A word that nothing has written has no value (20_memory.md R89). -/
def execLdw (wd : WReg) (addr : BitVec 8) (s : State) : Out :=
  let a := dmemAddress addr
  match s.dmemRead a with
  | some v => .next (s.writeW wd v).advance
  | none => .fault (.unwrittenDmem a)

/-- STW (R301). -/
def execStw (ws : WReg) (addr : BitVec 8) (s : State) : Out :=
  .next (s.dmemWrite (dmemAddress addr) (s.readW ws)).advance

/-- LDD (R302): hi from the even address, lo from the next. The MISALIGNED check comes before any access. -/
def execLdd (dd : DReg) (addr : BitVec 8) (s : State) : Out :=
  if isOdd addr then faultOf s .misaligned (.ldd dd addr)
  else
    let a := dmemAddress addr
    match s.dmemRead a, s.dmemRead (a + 1) with
    | some h, some l => .next (s.writeD dd ⟨h, l⟩).advance
    | none, _ => .fault (.unwrittenDmem a)
    | some _, none => .fault (.unwrittenDmem (a + 1))

/-- STD (R303): the MISALIGNED check comes before either word is written. -/
def execStd (ds : DReg) (addr : BitVec 8) (s : State) : Out :=
  if isOdd addr then faultOf s .misaligned (.std ds addr)
  else
    let a := dmemAddress addr
    let v := s.readD ds
    .next ((s.dmemWrite a v.hi).dmemWrite (a + 1) v.lo).advance

/-- MOVW (R304). -/
def execMovw (wd ws : WReg) (s : State) : Out := .next (s.writeW wd (s.readW ws)).advance

/-- DMOV (R305). -/
def execDmov (dd ds : DReg) (s : State) : Out := .next (s.writeD dd (s.readD ds)).advance

end Sys2Proof.Machine
end

