-- ==== Sys2Proof/Machine/Kernel.lean ====
section
/-! DEFINITION. The double-double kernel (40_dd_kernel.md R200 to R218): the pure functions of R22, then the
instructions. No kernel instruction faults but for its encoding (R201). -/

namespace Sys2Proof.Machine

/-! ### The kernel's functions -/

/-- `dd_neg` (R203). -/
def ddNeg (x : DD) : DD := ⟨fneg x.hi, fneg x.lo⟩

/-- `split` (R206), Veltkamp's, by the pseudocode for subnormals too (DESIGN CHOICE, log 23). -/
def splitWord (a : Word) : Raised DD :=
  (fma a romSplitC a).andThen fun t =>
  (fsub t a).andThen fun u =>
  (fsub t u).andThen fun hi =>
  (fsub a hi).andThen fun lo =>
  .quiet ⟨hi, lo⟩

/-- `two_sum` (R207). On ∞ with a quiet NaN the pseudocode raises nothing (DESIGN CHOICE, log 23). -/
def twoSum (a b : Word) : Raised DD :=
  (fadd a b).andThen fun s =>
  (fsub s a).andThen fun bb =>
  (fsub s bb).andThen fun aa =>
  (fsub a aa).andThen fun da =>
  (fsub b bb).andThen fun db =>
  (fadd da db).andThen fun e =>
  .quiet ⟨s, e⟩

/-- `fast_two_sum` (R208). Its precondition is not checked (R202). -/
def fastTwoSum (a b : Word) : Raised DD :=
  (fadd a b).andThen fun s =>
  (fsub s a).andThen fun t =>
  (fsub b t).andThen fun e =>
  .quiet ⟨s, e⟩

/-- `dd_add_w` (R209). -/
def ddAddW (x : DD) (b : Word) : Raised DD :=
  (twoSum x.hi b).andThen fun s =>
  (fadd s.lo x.lo).andThen fun e =>
  fastTwoSum s.hi e

/-- `dd_add` (R210). -/
def ddAdd (x y : DD) : Raised DD :=
  (twoSum x.hi y.hi).andThen fun s =>
  (twoSum x.lo y.lo).andThen fun t =>
  (fadd s.lo t.hi).andThen fun s2 =>
  (fastTwoSum s.hi s2).andThen fun u =>
  (fadd u.lo t.lo).andThen fun u2 =>
  fastTwoSum u.hi u2

/-- `dd_sub` (R211): A + (−B). -/
def ddSub (x y : DD) : Raised DD := ddAdd x (ddNeg y)

/-- `two_prod` (R212): the product and the multiply's rounding residual. Where the product overflows the residual has
the sign the pseudocode gives it, opposite to the product's (DESIGN CHOICE, log 23). -/
def twoProd (a b : Word) : Raised DD :=
  (fmul a b).andThen fun p =>
  (fma a b (fneg p)).andThen fun e =>
  .quiet ⟨p, e⟩

/-- `two_sqr` (R213). -/
def twoSqr (a : Word) : Raised DD :=
  (fmul a a).andThen fun p =>
  (fma a a (fneg p)).andThen fun e =>
  .quiet ⟨p, e⟩

/-- `dd_sqr` (R214). -/
def ddSqr (x : DD) : Raised DD :=
  (twoSqr x.hi).andThen fun p =>
  (fmul romTwo x.hi).andThen fun t0 =>
  (fmul t0 x.lo).andThen fun t =>
  (fadd p.lo t).andThen fun p2 =>
  (fma x.lo x.lo p2).andThen fun p3 =>
  fastTwoSum p.hi p3

/-- `dd_mul_w` (R215). -/
def ddMulW (x : DD) (b : Word) : Raised DD :=
  (twoProd x.hi b).andThen fun p =>
  (fma x.lo b p.lo).andThen fun p2 =>
  fastTwoSum p.hi p2

/-- `dd_mul` (R216). The term lo·lo is not formed. -/
def ddMul (x y : DD) : Raised DD :=
  (twoProd x.hi y.hi).andThen fun p =>
  (fmul x.hi y.lo).andThen fun t0 =>
  (fma x.lo y.hi t0).andThen fun t =>
  (fadd p.lo t).andThen fun p2 =>
  fastTwoSum p.hi p2

/-- `dd_div_w` (R217). -/
def ddDivW (x : DD) (b : Word) : Raised DD :=
  (fdiv x.hi b).andThen fun q1 =>
  (twoProd q1 b).andThen fun p =>
  (twoSum x.hi (fneg p.hi)).andThen fun s =>
  (fsub s.lo p.lo).andThen fun e0 =>
  (fadd e0 x.lo).andThen fun e =>
  (fadd s.hi e).andThen fun n =>
  (fdiv n b).andThen fun q2 =>
  fastTwoSum q1 q2

/-- `dd_div` (R218). A/A of a negative A has the low word −0 that the pseudocode gives (DESIGN CHOICE, log 23). -/
def ddDiv (x y : DD) : Raised DD :=
  (fdiv x.hi y.hi).andThen fun q1 =>
  (ddMulW y q1).andThen fun r =>
  (twoSum x.hi (fneg r.hi)).andThen fun s =>
  (fsub s.lo r.lo).andThen fun e0 =>
  (fadd e0 x.lo).andThen fun e =>
  (fadd s.hi e).andThen fun n =>
  (fdiv n y.hi).andThen fun q2 =>
  fastTwoSum q1 q2

/-! ### The kernel's instructions -/

/-- DNEG (R203): raises nothing, not for a signalling NaN either. -/
def execDneg (dd da : DReg) (s : State) : Out := completeD s dd (.quiet (ddNeg (s.readD da)))

/-- DMK (R204): a raw copy, not normalized. -/
def execDmk (dd : DReg) (wh wl : WReg) (s : State) : Out :=
  completeD s dd (.quiet ⟨s.readW wh, s.readW wl⟩)

/-- DDEC (R205): two word registers, as stored. With both the same register the term is no instruction and
its word is illegal (30_encoding.md R132(d); log 11). -/
def execDdec (wh wl : WReg) (da : DReg) (s : State) : Out :=
  if wh = wl then faultOf s .illegal (.ddec wh wl da)
  else
    let v := s.readD da
    .next ((s.writeW wh v.hi).writeW wl v.lo).advance

/-- SPLIT (R206). -/
def execSplit (dd : DReg) (wa : WReg) (s : State) : Out := completeD s dd (splitWord (s.readW wa))

/-- TSUM (R207). -/
def execTsum (dd : DReg) (wa wb : WReg) (s : State) : Out :=
  completeD s dd (twoSum (s.readW wa) (s.readW wb))

/-- FTSUM (R208). -/
def execFtsum (dd : DReg) (wa wb : WReg) (s : State) : Out :=
  completeD s dd (fastTwoSum (s.readW wa) (s.readW wb))

/-- DADDW (R209). -/
def execDaddw (dd da : DReg) (wb : WReg) (s : State) : Out :=
  completeD s dd (ddAddW (s.readD da) (s.readW wb))

/-- DADD (R210). -/
def execDadd (dd da db : DReg) (s : State) : Out := completeD s dd (ddAdd (s.readD da) (s.readD db))

/-- DSUB (R211). -/
def execDsub (dd da db : DReg) (s : State) : Out := completeD s dd (ddSub (s.readD da) (s.readD db))

/-- TPROD (R212). -/
def execTprod (dd : DReg) (wa wb : WReg) (s : State) : Out :=
  completeD s dd (twoProd (s.readW wa) (s.readW wb))

/-- TSQR (R213). -/
def execTsqr (dd : DReg) (wa : WReg) (s : State) : Out := completeD s dd (twoSqr (s.readW wa))

/-- DSQR (R214). -/
def execDsqr (dd da : DReg) (s : State) : Out := completeD s dd (ddSqr (s.readD da))

/-- DMULW (R215). -/
def execDmulw (dd da : DReg) (wb : WReg) (s : State) : Out :=
  completeD s dd (ddMulW (s.readD da) (s.readW wb))

/-- DMUL (R216). -/
def execDmul (dd da db : DReg) (s : State) : Out := completeD s dd (ddMul (s.readD da) (s.readD db))

/-- DDIVW (R217): division by zero raises DZ and does not trap. -/
def execDdivw (dd da : DReg) (wb : WReg) (s : State) : Out :=
  completeD s dd (ddDivW (s.readD da) (s.readW wb))

/-- DDIV (R218). -/
def execDdiv (dd da db : DReg) (s : State) : Out := completeD s dd (ddDiv (s.readD da) (s.readD db))

end Sys2Proof.Machine
end

