-- ==== Sys2Proof/Machine/Pipeline.lean ====
section
/-! DEFINITION. The exp(±x²) pipeline (41_exp_pipeline.md R260 to R299): the steps' functions, the steps as
instructions, and the complete functions. -/

namespace Sys2Proof.Machine

/-! ### Range reduction (R261) -/

/-- What RRED admits: y_hi no NaN, not below +0 (−0 is admitted), not above RRED_MAX. Exact comparisons
that raise nothing. -/
def rredAdmits (yh : Word) : Bool :=
  !isNaN yh && 0 ≤ valUnits yh && valUnits yh ≤ valUnits romRredMax

/-- The integer value of an integer-valued nonnegative word. -/
def integerOf (kf : Word) : Nat := magUnits kf / 2 ^ 1074

/-- `rred` past its check: the index k and the residual R (R261). -/
def rred (y : DD) : Raised (Nat × DD) :=
  (fma y.hi romInvL romShifter).andThen fun t =>
  (fsub t romShifter).andThen fun kf =>
  (fma (fneg kf) romLHi y.hi).andThen fun rh =>
  (fmul kf romLLo).andThen fun pHi =>
  (fma kf romLLo (fneg pHi)).andThen fun pLo =>
  (twoSum rh (fneg pHi)).andThen fun r =>
  (fsub r.lo pLo).andThen fun e0 =>
  (fadd e0 y.lo).andThen fun e =>
  (fastTwoSum r.hi e).andThen fun res =>
  .quiet (integerOf kf, res)

/-! ### Polynomial (R262, R263) -/

/-- `horner(C, r)` (R262): from the highest degree, four FMAs. -/
def horner (cs : Config.Poly) (r : Word) : Raised Word :=
  (fma cs[0] r cs[1]).andThen fun p1 =>
  (fma p1 r cs[2]).andThen fun p2 =>
  (fma p2 r cs[3]).andThen fun p3 =>
  fma p3 r cs[4]

/-- `epoly(r, v)` (R263) with the coefficients of v: r² times the polynomial, plus ±r. -/
def epoly (cs : Config.Poly) (v : Variant) (r : Word) : Raised DD :=
  (horner cs r).andThen fun p =>
  (twoSqr r).andThen fun sq =>
  (ddMulW sq p).andThen fun q =>
  ddAddW q (signFor v r)

/-! ### Table combination (R265) -/

/-- `tcomb` with the index j: T + T·E. -/
def tcomb (v : Variant) (j : Nat) (e : DD) : Raised DD :=
  let t := romTable v j
  (ddMul t e).andThen fun te => ddAdd t te

/-! ### Low-order correction (R267) -/

/-- `lcorr(t, v)`: 1 ± t + t²/2, by the pseudocode. DESIGN CHOICE (log 22): for an infinite t whose sign makes ±t
+∞ this leaves (+∞, qNaN), where R267's prose says that q and both words are NaNs. -/
def lcorr (v : Variant) (t : Word) : Raised DD :=
  (fmul romHalf t).andThen fun h =>
  (fma h t (signFor v t)).andThen fun q =>
  fastTwoSum romOne q

/-! ### Rescale (R270) -/

/-- What RSCL admits: a normal number, its exponent field neither 0 nor 2047. -/
def rsclAdmits (h : Word) : Bool := expField h != 0 && expField h != 2047

/-- The word with its exponent field replaced: `h[63] ++ e ++ h[51:0]`. -/
def withExponent (h : Word) (e : Nat) : Word :=
  h.extractLsb' 63 1 ++ BitVec.ofNat 11 e ++ h.extractLsb' 0 52

/-- The exponent that R270 aims at: e + m for `.P`, e − m for `.M`, an unbounded integer. -/
def rsclTarget (v : Variant) (h : Word) (m : Nat) : Int :=
  match v with
  | .P => (expField h : Int) + m
  | .M => (expField h : Int) - m

/-- `rscl(h, v)` past its check, scaling by 2^(±m): the four branches of R270. -/
def rscl (v : Variant) (h : Word) (m : Nat) : Raised Word :=
  let e2 := rsclTarget v h m
  if 1 ≤ e2 ∧ e2 ≤ 2046 then .quiet (withExponent h e2.toNat)
  else if 2047 ≤ e2 then ⟨infOf (signBit h), flagOF ||| flagNX⟩
  else if e2 + 1022 < 1 then ⟨zeroOf (signBit h), flagUF ||| flagNX⟩
  else fmul (withExponent h (e2 + 1022).toNat) romTwoM1022

/-! ### The complete functions (R290) -/

/-- The trivial threshold of a function (R292). -/
def trivialBelow (v : Variant) : Word :=
  match v with
  | .P => romTrivP
  | .M => romTrivM

/-- The saturation threshold of a function (R292). -/
def saturatedAbove (v : Variant) : Word :=
  match v with
  | .P => romOvfP
  | .M => romUnfM

/-- The saturation exit: +∞ or +0, with OF|NX or UF|NX when x is finite (R293). -/
def saturated (v : Variant) (x : Word) : Raised Word :=
  match v with
  | .P => ⟨infOf false, flagIf (!isInf x) (flagOF ||| flagNX)⟩
  | .M => ⟨zeroOf false, flagIf (!isInf x) (flagUF ||| flagNX)⟩

/-- The last step: the rescale of M.hi. Where M.hi is no normal number, which the default coefficients
never reach (R295(b)), the result is a free value (log 10). -/
def rescaleMantissa (v : Variant) (h : Word) (m : Nat) : Raised Word :=
  if rsclAdmits h then rscl v h m
  else ⟨(Config.rescaleOutside v h m).1, (Config.rescaleOutside v h m).2⟩

/-- Steps 4 to 9 of R290, from Y = (y_hi, y_lo) on. -/
def expOfSquare (cs : Config.Poly) (v : Variant) (y : DD) : Raised Word :=
  (rred y).andThen fun kr =>
  (epoly cs v kr.2.hi).andThen fun e =>
  (tcomb v (kr.1 % 32) e).andThen fun m1 =>
  (lcorr v kr.2.lo).andThen fun f =>
  (ddMul m1 f).andThen fun m =>
  rescaleMantissa v m.hi (kr.1 / 32)

/-- exp(±x²) (R290): NaN, trivial and saturation screening in that order, then the full path. The low word
of x² is computed after screening (R291). -/
def expSquare (cs : Config.Poly) (v : Variant) (x : Word) : Raised Word :=
  if isNaN x then fadd x x
  else
    (fmul x x).andThen fun yh =>
    (flt yh (trivialBelow v)).andThen fun trivial =>
    if trivial then .quiet romOne
    else
      (flt (saturatedAbove v) yh).andThen fun saturates =>
      if saturates then saturated v x
      else
        (fma x x (fneg yh)).andThen fun yl =>
        expOfSquare cs v ⟨yh, yl⟩

/-! ### The steps as instructions -/

/-- RRED (R261): RANGE before any primitive, else K and D. -/
def execRred (dd da : DReg) (s : State) : Out :=
  let y := s.readD da
  if rredAdmits y.hi then
    let r := rred y
    .next (((s.writeK (BitVec.ofNat 32 r.val.1)).writeD dd r.val.2).raiseFlags r.flags).advance
  else faultOf s .range (.rred dd da)

/-- EPOLY.P (R263). -/
def execEpolyP (dd : DReg) (wa : WReg) (s : State) : Out :=
  completeD s dd (epoly (s.poly .P) .P (s.readW wa))

/-- EPOLY.M (R263). -/
def execEpolyM (dd : DReg) (wa : WReg) (s : State) : Out :=
  completeD s dd (epoly (s.poly .M) .M (s.readW wa))

/-- TCOMB.P (R265): K[31:5] is ignored. -/
def execTcombP (dd da : DReg) (s : State) : Out :=
  completeD s dd (tcomb .P (indexOf s.k) (s.readD da))

/-- TCOMB.M (R265). -/
def execTcombM (dd da : DReg) (s : State) : Out :=
  completeD s dd (tcomb .M (indexOf s.k) (s.readD da))

/-- LCORR.P (R267). -/
def execLcorrP (dd : DReg) (wa : WReg) (s : State) : Out := completeD s dd (lcorr .P (s.readW wa))

/-- LCORR.M (R267). -/
def execLcorrM (dd : DReg) (wa : WReg) (s : State) : Out := completeD s dd (lcorr .M (s.readW wa))

/-- RSCL.P (R270): D[a].lo is not read; RANGE before any state change. -/
def execRsclP (wd : WReg) (da : DReg) (s : State) : Out :=
  let h := (s.readD da).hi
  if rsclAdmits h then completeW s wd (rscl .P h (quotientOf s.k))
  else faultOf s .range (.rsclP wd da)

/-- RSCL.M (R270). -/
def execRsclM (wd : WReg) (da : DReg) (s : State) : Out :=
  let h := (s.readD da).hi
  if rsclAdmits h then completeW s wd (rscl .M h (quotientOf s.k))
  else faultOf s .range (.rsclM wd da)

/-- EXPX2 (R290): writes Wd and FFLAGS only (R296). -/
def execExpx2 (wd wa : WReg) (s : State) : Out :=
  completeW s wd (expSquare (s.poly .P) .P (s.readW wa))

/-- EXPMX2 (R290): writes Wd and FFLAGS only (R296). -/
def execExpmx2 (wd wa : WReg) (s : State) : Out :=
  completeW s wd (expSquare (s.poly .M) .M (s.readW wa))

end Sys2Proof.Machine
end

