-- ==== Sys2Proof/Machine/System.lean ====
section
/-! DEFINITION. The system instructions (42_data_control.md R320 to R325). -/

namespace Sys2Proof.Machine

/-- NOP (R321). -/
def execNop (s : State) : Out := .next s.advance

/-- HALT (R320): STATUS becomes HALTED and PC keeps the address of this HALT. -/
def execHalt (s : State) : Out := .next { s with status := .halted }

/-- FCLR (R322): the only instruction that clears a flag. -/
def execFclr (s : State) : Out := .next ({ s with fflags := 0 } : State).advance

/-- FRD (R323): `W[wd] <- zext_64(FFLAGS)`. -/
def execFrd (wd : WReg) (s : State) : Out := .next (s.writeW wd (s.fflags.setWidth 64)).advance

/-- KRD (R324): `W[wd] <- zext_64(K)`. -/
def execKrd (wd : WReg) (s : State) : Out := .next (s.writeW wd (s.k.setWidth 64)).advance

/-- KWR (R325): `K <- W[ws][31:0]`. -/
def execKwr (ws : WReg) (s : State) : Out := .next (s.writeK ((s.readW ws).setWidth 32)).advance

end Sys2Proof.Machine
end

