-- ==== Sys2Proof/Machine/Dispatch.lean ====
section
/-! DEFINITION. What each instruction does: one arm per constructor of `Instr`. -/

namespace Sys2Proof.Machine

def exec (i : Instr) (s : State) : Host.Outcome State Fault Refusal :=
  match i with
  | .nop => Sys2Proof.Machine.execNop s
  | .halt => Sys2Proof.Machine.execHalt s
  | .fclr => Sys2Proof.Machine.execFclr s
  | .frd wd => Sys2Proof.Machine.execFrd wd s
  | .krd wd => Sys2Proof.Machine.execKrd wd s
  | .kwr ws => Sys2Proof.Machine.execKwr ws s
  | .ldw wd addr => Sys2Proof.Machine.execLdw wd addr s
  | .stw ws addr => Sys2Proof.Machine.execStw ws addr s
  | .ldd dd addr => Sys2Proof.Machine.execLdd dd addr s
  | .std ds addr => Sys2Proof.Machine.execStd ds addr s
  | .movw wd ws => Sys2Proof.Machine.execMovw wd ws s
  | .dmov dd ds => Sys2Proof.Machine.execDmov dd ds s
  | .dneg dd da => Sys2Proof.Machine.execDneg dd da s
  | .dmk dd wh wl => Sys2Proof.Machine.execDmk dd wh wl s
  | .ddec wh wl da => Sys2Proof.Machine.execDdec wh wl da s
  | .split dd wa => Sys2Proof.Machine.execSplit dd wa s
  | .tsum dd wa wb => Sys2Proof.Machine.execTsum dd wa wb s
  | .ftsum dd wa wb => Sys2Proof.Machine.execFtsum dd wa wb s
  | .daddw dd da wb => Sys2Proof.Machine.execDaddw dd da wb s
  | .dadd dd da db => Sys2Proof.Machine.execDadd dd da db s
  | .dsub dd da db => Sys2Proof.Machine.execDsub dd da db s
  | .tprod dd wa wb => Sys2Proof.Machine.execTprod dd wa wb s
  | .tsqr dd wa => Sys2Proof.Machine.execTsqr dd wa s
  | .dsqr dd da => Sys2Proof.Machine.execDsqr dd da s
  | .dmulw dd da wb => Sys2Proof.Machine.execDmulw dd da wb s
  | .dmul dd da db => Sys2Proof.Machine.execDmul dd da db s
  | .ddivw dd da wb => Sys2Proof.Machine.execDdivw dd da wb s
  | .ddiv dd da db => Sys2Proof.Machine.execDdiv dd da db s
  | .rred dd da => Sys2Proof.Machine.execRred dd da s
  | .epolyP dd wa => Sys2Proof.Machine.execEpolyP dd wa s
  | .epolyM dd wa => Sys2Proof.Machine.execEpolyM dd wa s
  | .tcombP dd da => Sys2Proof.Machine.execTcombP dd da s
  | .tcombM dd da => Sys2Proof.Machine.execTcombM dd da s
  | .lcorrP dd wa => Sys2Proof.Machine.execLcorrP dd wa s
  | .lcorrM dd wa => Sys2Proof.Machine.execLcorrM dd wa s
  | .rsclP wd da => Sys2Proof.Machine.execRsclP wd da s
  | .rsclM wd da => Sys2Proof.Machine.execRsclM wd da s
  | .expx2 wd wa => Sys2Proof.Machine.execExpx2 wd wa s
  | .expmx2 wd wa => Sys2Proof.Machine.execExpmx2 wd wa s
  | .jmp target => Sys2Proof.Machine.execJmp target s
  | .bflt wa wb target => Sys2Proof.Machine.execBflt wa wb target s
  | .bfeq wa wb target => Sys2Proof.Machine.execBfeq wa wb target s

end Sys2Proof.Machine
end

