-- ==== Sys2Proof/Machine/Fetch.lean ====
section
/-! DEFINITION. Fetch and decode (70_reset_and_hazards.md R520; 60_exceptions.md R401, R404). -/

namespace Sys2Proof.Machine

/-- The instruction at PC, or the outcome that comes instead of one: the FETCH fault at PC ≥ 256, with FINST
0, before anything is read (R401); the model's stop on an IMEM word nothing has written (R406); the
ILLEGAL fault, with the word (30_encoding.md R132). -/
def fetchDecode (s : State) : Except Out Instr :=
  if Config.imemWords ≤ s.pc.toNat then .error (.next (s.takeFault .fetch 0))
  else
    match s.imemRead s.pc.toNat with
    | none => .error (.fault (.unwrittenImem s.pc.toNat))
    | some word =>
      match decode word with
      | .error _ => .error (.next (s.takeFault .illegal word))
      | .ok i => .ok i

/-- The state whose next step fetches and runs this word: the core runs, no host event comes first, PC is a
fetch address, and IMEM holds the word there (log 8). -/
def State.placeWord (s : State) (word : Half) : State :=
  let pc := if s.pc.toNat < Config.imemWords then s.pc else 0
  State.imemWrite { s with pc := pc, status := .running, host := [] } pc.toNat word

end Sys2Proof.Machine
end

