-- ==== Sys2Proof/Machine/HostPort.lean ====
section
/-! DEFINITION. The host port: its register map (20_memory.md R86), its access rules (R87) and the
commands of CTRL (10_state.md R55). -/

namespace Sys2Proof.Machine

/-- What an offset of the port names (R86). `upper` is the half of bits 63:32, at the higher offset (R83). -/
inductive HostLoc where
  | ctrl
  | status
  | cause
  | epc
  | finst
  | pc
  | fflags
  | k
  | id
  | w (r : WReg) (upper : Bool)
  | d (r : DReg) (lo upper : Bool)
  | imem (n : Nat)
  | dmem (n : Nat) (upper : Bool)
  | unmapped
deriving DecidableEq, Repr

/-- The register map of R86 at an offset that is a multiple of 4. -/
def hostLocAt (off : Nat) : HostLoc :=
  let upper := off / 4 % 2 == 1
  if off < 0x100 then
    match off with
    | 0x000 => .ctrl
    | 0x004 => .status
    | 0x008 => .cause
    | 0x00C => .epc
    | 0x010 => .finst
    | 0x014 => .pc
    | 0x018 => .fflags
    | 0x01C => .k
    | 0x020 => .id
    | _ => .unmapped
  else if off < 0x180 then .w (Fin.ofNat 16 ((off - 0x100) / 8)) upper
  else if off < 0x200 then .d (Fin.ofNat 8 ((off - 0x180) / 16)) (off / 8 % 2 == 1) upper
  else if off < 0x400 then .unmapped
  else if off < 0x800 then .imem ((off - 0x400) / 4)
  else if off < 0x1000 then .dmem ((off - 0x800) / 8) upper
  else .unmapped

/-- One half of a 64-bit word (R83). -/
def halfOf (v : Word) (upper : Bool) : Half := if upper then v.extractLsb' 32 32 else v.extractLsb' 0 32

/-- A 64-bit word with one half replaced (R83, R88). -/
def withHalf (v : Word) (upper : Bool) (x : Half) : Word :=
  if upper then x ++ v.extractLsb' 0 32 else v.extractLsb' 32 32 ++ x

/-- STATUS as the host reads it (R51). -/
def statusWord : RunState → Half
  | .idle => 0
  | .running => 1
  | .halted => 2
  | .faulted => 4

/-- CAUSE as the host reads it (R52, R400). -/
def causeWord : Cause → Half
  | .none => 0
  | .fetch => 1
  | .illegal => 2
  | .misaligned => 3
  | .range => 4

/-- The byte address in DMEM of a half of a word (R86). -/
def dmemHalfByte (n : Nat) (upper : Bool) : Nat := dmemByte n + (if upper then 4 else 0)

/-- The word the port answers to a read (R86); an IMEM word or a DMEM half that nothing has written has no
value (R89). CTRL and an unmapped offset read 0 (R55, R87). -/
def State.hostValue (s : State) : HostLoc → Except Fault Half
  | .ctrl => .ok 0
  | .status => .ok (statusWord s.status)
  | .cause => .ok (causeWord s.cause)
  | .epc => .ok (s.epc.setWidth 32)
  | .finst => .ok s.finst
  | .pc => .ok (s.pc.setWidth 32)
  | .fflags => .ok (s.fflags.setWidth 32)
  | .k => .ok s.k
  | .id => .ok romId
  | .w r upper => .ok (halfOf (s.readW r) upper)
  | .d r lo upper => .ok (halfOf (if lo then (s.readD r).lo else (s.readD r).hi) upper)
  | .imem n =>
    match s.imemRead n with
    | some v => .ok v
    | none => .error (.unwrittenImem n)
  | .dmem n upper =>
    match s.dmem.readLE (dmemHalfByte n upper) 4 with
    | some v => .ok (BitVec.ofNat 32 v)
    | none => .error (.unwrittenDmem n)
  | .unmapped => .ok 0

/-- A write of CTRL (R55): SRESET in any state, and before START; START only while the core is not running;
every other bit is ignored. -/
def State.command (s : State) (v : Half) : State :=
  if v.getLsbD 1 then s.softReset
  else if v.getLsbD 0 && s.status != .running then s.start
  else s

/-- A write of the port (R86, R56, R57). Read-only registers and unmapped offsets ignore it (R87). -/
def State.hostStore (s : State) (v : Half) : HostLoc → State
  | .ctrl => s.command v
  | .pc => { s with pc := v.setWidth 9 }
  | .fflags => { s with fflags := v.setWidth 5 }
  | .k => { s with k := v }
  | .w r upper => s.writeW r (withHalf (s.readW r) upper v)
  | .d r lo upper =>
    let x := s.readD r
    s.writeD r (if lo then ⟨x.hi, withHalf x.lo upper v⟩ else ⟨withHalf x.hi upper v, x.lo⟩)
  | .imem n => s.imemWrite n v
  | .dmem n upper => { s with dmem := s.dmem.writeLE (dmemHalfByte n upper) 4 v.toNat }
  | .status | .cause | .epc | .finst | .id | .unmapped => s

/-- R87: an access is 32 bits wide, at a multiple of 4. -/
def hostWellFormed (off : BitVec 12) (bits : Nat) : Bool := bits == 32 && off.toNat % 4 == 0

/-- One host access (R87): refused when ill-formed, and, while the core runs, unless it reads STATUS or
writes CTRL. A read changes nothing but the reply (R89). -/
def hostAccess (a : HostAccess) (s : State) : Out :=
  match a with
  | .read off bits =>
    let loc := hostLocAt off.toNat
    if !hostWellFormed off bits then .refused .hostAccessMalformed
    else if s.status == .running && loc != .status then .refused .hostAccessWhileRunning
    else
      match s.hostValue loc with
      | .ok v => .next { s with hostReply := v }
      | .error e => .fault e
  | .write off bits v =>
    let loc := hostLocAt off.toNat
    if !hostWellFormed off bits then .refused .hostAccessMalformed
    else if s.status == .running && loc != .ctrl then .refused .hostAccessWhileRunning
    else .next (s.hostStore v loc)

end Sys2Proof.Machine
end

