-- ==== Sys2Proof/Machine/Step.lean ====
section
/-! DEFINITION. One step of DDX. -/

namespace Sys2Proof.Machine

/-- One step of the core (70_reset_and_hazards.md R520). A core that is not running fetches nothing and every
piece of state survives (60_exceptions.md R424). -/
def coreStep (s : State) : Host.Outcome State Fault Refusal :=
  if s.status = .running then
    match fetchDecode s with
    | .ok i => exec i s
    | .error o => o
  else .next s

/-- One step: what the outside world does first (log 6), between instructions (R501), or the core's move. -/
def step (s : State) : Host.Outcome State Fault Refusal :=
  match s.host with
  | [] => coreStep s
  | .idle :: es => coreStep { s with host := es }
  | .access a :: es => hostAccess a { s with host := es }
  | .powerOn :: es => .next (State.powerCycle { s with host := es })

/-- The state whose very next step runs the instruction whose bits are w (log 8). -/
def State.withFetchWord (s : State) (nbits w : Nat) : State :=
  s.placeWord (BitVec.ofNat 32 (w % 2 ^ nbits))

end Sys2Proof.Machine
end

