-- ==== Sys2Proof/Safety.lean ====
section
/-! DEFINITION. The terms claims about DDX are stated in: the invariants of a state, and what an instruction
leaves unchanged. -/

namespace Sys2Proof.Machine

/-! ### Invariants -/

/-- Both memories are in canonical form and inside their address space (20_memory.md R80, R81). -/
def State.wf (s : State) : Bool :=
  s.imem.wf && s.imem.within (imemByte Config.imemWords) &&
    s.dmem.wf && s.dmem.within (dmemByte Config.dmemWords)

/-- What the table of 60_exceptions.md R400 says of CAUSE, EPC and FINST, read as a property of a state:
STATUS is FAULTED exactly when a cause is recorded, and EPC and FINST tell of a word that has that
cause. -/
def State.faultRecord (s : State) : Prop :=
  (s.status = .faulted ↔ s.cause ≠ .none) ∧
  match s.cause with
  | .none => s.epc = 0 ∧ s.finst = 0
  | .fetch => Config.imemWords ≤ s.epc.toNat ∧ s.finst = 0
  | .illegal => s.epc.toNat < Config.imemWords ∧ ∃ e, decode s.finst = .error e
  | .misaligned =>
    s.epc.toNat < Config.imemWords ∧ ∃ r addr, isOdd addr = true ∧
      (decode s.finst = .ok (.ldd r addr) ∨ decode s.finst = .ok (.std r addr))
  | .range =>
    s.epc.toNat < Config.imemWords ∧
      ((∃ d a, decode s.finst = .ok (.rred d a)) ∨ (∃ d a, decode s.finst = .ok (.rsclP d a)) ∨
        ∃ d a, decode s.finst = .ok (.rsclM d a))

/-! ### Frames -/

/-- Every word register is unchanged. -/
def KeepsW (s t : State) : Prop := ∀ r, t.readW r = s.readW r

/-- Every DD register is unchanged. -/
def KeepsD (s t : State) : Prop := ∀ r, t.readD r = s.readD r

/-- Every byte of DMEM is unchanged. -/
def KeepsDmem (s t : State) : Prop := ∀ a, t.dmem.readByte a = s.dmem.readByte a

/-- STATUS, CAUSE, EPC, FINST, every byte of IMEM, the ROM's coefficients and the model's own fields are
unchanged. -/
def KeepsControl (s t : State) : Prop :=
  t.status = s.status ∧ t.cause = s.cause ∧ t.epc = s.epc ∧ t.finst = s.finst ∧
    (∀ a, t.imem.readByte a = s.imem.readByte a) ∧ t.polyP = s.polyP ∧ t.polyM = s.polyM ∧
    t.host = s.host ∧ t.hostReply = s.hostReply

/-- Nothing changes but PC. -/
def KeepsAllButPc (s t : State) : Prop :=
  KeepsW s t ∧ KeepsD s t ∧ t.k = s.k ∧ t.fflags = s.fflags ∧ KeepsDmem s t ∧ KeepsControl s t

/-- One word register gets a value, flags are OR'd in, PC goes to the next word, and nothing else changes. -/
def WritesW (s t : State) (d : WReg) (v : Word) (f : Flags) : Prop :=
  t.readW d = v ∧ (∀ r, r ≠ d → t.readW r = s.readW r) ∧ t.fflags = s.fflags ||| f ∧ t.pc = s.pc + 1 ∧
    KeepsD s t ∧ t.k = s.k ∧ KeepsDmem s t ∧ KeepsControl s t

/-- One DD register gets a value, flags are OR'd in, PC goes to the next word, and nothing else changes. -/
def WritesD (s t : State) (d : DReg) (v : DD) (f : Flags) : Prop :=
  t.readD d = v ∧ (∀ r, r ≠ d → t.readD r = s.readD r) ∧ t.fflags = s.fflags ||| f ∧ t.pc = s.pc + 1 ∧
    KeepsW s t ∧ t.k = s.k ∧ KeepsDmem s t ∧ KeepsControl s t

/-- A fault was taken (R402): CAUSE, EPC, FINST and STATUS as given, PC kept, and nothing else changed. -/
def TakesFault (s t : State) (c : Cause) (word : Half) : Prop :=
  t.cause = c ∧ t.epc = s.pc ∧ t.finst = word ∧ t.status = .faulted ∧ t.pc = s.pc ∧
    KeepsW s t ∧ KeepsD s t ∧ t.k = s.k ∧ t.fflags = s.fflags ∧ KeepsDmem s t ∧
    (∀ a, t.imem.readByte a = s.imem.readByte a) ∧ t.polyP = s.polyP ∧ t.polyM = s.polyM ∧
    t.host = s.host ∧ t.hostReply = s.hostReply

/-- The stored DMEM word has the value, and every byte outside it is unchanged. -/
def StoresWord (s t : State) (a : Nat) (v : Word) : Prop :=
  t.dmemRead a = some v ∧
    ∀ b, b < dmemByte a ∨ dmemByte a + 8 ≤ b → t.dmem.readByte b = s.dmem.readByte b

/-! ### Who writes which registers -/

/-- The writers of word registers that R42 lists. -/
def writesWordRegister : Instr → Bool
  | .ldw .. | .movw .. | .ddec .. | .krd .. | .frd .. | .rsclP .. | .rsclM .. | .expx2 .. | .expmx2 .. => true
  | _ => false

/-- The writers of DD registers that R44 lists. -/
def writesDDRegister : Instr → Bool
  | .ldd .. | .dmov .. | .dneg .. | .dmk .. | .split .. | .tsum .. | .ftsum .. | .daddw .. | .dadd .. | .dsub ..
  | .tprod .. | .tsqr .. | .dsqr .. | .dmulw .. | .dmul .. | .ddivw .. | .ddiv .. | .rred .. | .epolyP ..
  | .epolyM .. | .tcombP .. | .tcombM .. | .lcorrP .. | .lcorrM .. => true
  | _ => false

/-- The writers of K that R46 lists. -/
def writesK : Instr → Bool
  | .rred .. | .kwr .. => true
  | _ => false

/-- The writers of DMEM (20_memory.md R81, R88). -/
def writesDmem : Instr → Bool
  | .stw .. | .std .. => true
  | _ => false

/-- The control transfers of R48: JMP, BFLT and BFEQ. -/
def isBranch : Instr → Bool
  | .jmp .. | .bflt .. | .bfeq .. => true
  | _ => false

/-! ### Runs -/

/-- The next state of an outcome, where it has one. -/
def nextOf : Out → Option State
  | .next s => some s
  | _ => none

/-- The instructions of a list executed one after another, each on the state the one before left. -/
def execAll : List Instr → State → Option State
  | [], s => some s
  | i :: is, s => (nextOf (exec i s)).bind (execAll is)

/-- `n` steps of the machine. -/
def stepN : Nat → State → Option State
  | 0, s => some s
  | n + 1, s => (nextOf (step s)).bind (stepN n)

end Sys2Proof.Machine
end

