-- ==== Sys2Proof/Certificates/Slice0/Obligations.lean ====
section
/-! DEFINITION. The statements about DDX that the provers settle. -/

open Sys2Proof Sys2Proof.Machine

/-! ### Decoding and encoding (30_encoding.md) -/

/-- R120 to R132: decoding the word of an instruction gives the instruction back, for every instruction and
every operand. -/
def Obligations.DecodeOfEncodeIsTheInstruction : Prop :=
  ∀ i : Instr, i.wf = true → decode (encode i) = .ok i

/-- R132: a word that decodes is the word of a well-formed instruction, so that a word has one meaning. -/
def Obligations.DecodedWordIsItsEncoding : Prop :=
  ∀ (w : Half) (i : Instr), decode w = .ok i → i.wf = true ∧ encode i = w

/-- R126: a word decodes to an instruction of a mnemonic exactly when it matches that mnemonic's row of the
opcode table and, for DDEC, its fields A and B differ. -/
def Obligations.DecodeAgreesWithOpcodeTable : Prop :=
  ∀ (w : Half) (name : String),
    (∃ i, decode w = .ok i ∧ i.mnemonic = name) ↔
      ∃ r ∈ opcodeTable, r.mnemonic = name ∧ w &&& r.mask = r.pattern ∧
        (name = "DDEC" → (fieldsOf w).a ≠ (fieldsOf w).b)

/-- R129: the five worked encodings, in both directions. -/
def Obligations.WorkedEncodingsDecode : Prop :=
  (decode 0x27201000#32 = .ok (.dadd 2 0 1) ∧ encode (.dadd 2 0 1) = 0x27201000#32) ∧
  (decode 0x10300010#32 = .ok (.ldw 3 0x10) ∧ encode (.ldw 3 0x10) = 0x10300010#32) ∧
  (decode 0x4A100000#32 = .ok (.expx2 1 0) ∧ encode (.expx2 1 0) = 0x4A100000#32) ∧
  (decode 0x61012005#32 = .ok (.bflt 1 2 5) ∧ encode (.bflt 1 2 5) = 0x61012005#32) ∧
  (decode 0x02000000#32 = .ok .halt ∧ encode .halt = 0x02000000#32)

/-! ### One step (60_exceptions.md, 70_reset_and_hazards.md) -/

/-- R520: a running core, with no host event before it, runs the instruction decoded from the word at PC; a
host event that is no access lets the core move, which is the model's form (log 6). -/
def Obligations.StepRunsTheDecodedInstruction : Prop :=
  ∀ (s : State) (w : Half) (i : Instr),
    s.status = .running → s.pc.toNat < 256 → s.imemRead s.pc.toNat = some w → decode w = .ok i →
      (s.host = [] → step s = exec i s) ∧
      (∀ es, s.host = .idle :: es → step s = exec i { s with host := es })

/-- R401: PC at 256 or above takes the FETCH fault, with EPC the PC and FINST 0, whatever IMEM holds; and PC
comes from below 256 to 256 or above only from an instruction at 255 or by a host write of PC. Conversely a running
core with PC below 256 takes no FETCH fault (R400). -/
def Obligations.FetchFaultExactlyBeyondImem : Prop :=
  (∀ s : State, s.status = .running → s.host = [] → 256 ≤ s.pc.toNat →
    ∃ t, step s = .next t ∧ TakesFault s t .fetch 0) ∧
  (∀ s t : State, step s = .next t → s.pc.toNat < 256 → 256 ≤ t.pc.toNat →
    (s.pc = 255 ∧ t.pc = 256 ∧ s.status = .running) ∨
      ∃ v es, s.host = .access (.write 0x014 32 v) :: es ∧ t.pc = v.setWidth 9) ∧
  (∀ s t : State, s.status = .running → s.pc.toNat < 256 → step s = .next t → t.status = .faulted →
    t.cause ≠ .fetch)

/-- R132: executing an illegal word takes the ILLEGAL fault with FINST the word and writes nothing else. -/
def Obligations.IllegalWordTakesIllegalFault : Prop :=
  ∀ (s : State) (w : Half) (e : Illegal),
    s.status = .running → s.host = [] → s.pc.toNat < 256 → s.imemRead s.pc.toNat = some w →
      decode w = .error e → ∃ t, step s = .next t ∧ TakesFault s t .illegal w

/-- R406: a fetch or a load of a word that nothing has written stops the model, and takes no architectural
fault; so does a host read of an IMEM word or of a DMEM half with an unwritten byte (R89; log 15). What counts as
written, byte by byte, is the model's reading (log 2, log 3). -/
def Obligations.UnwrittenReadStopsTheModel : Prop :=
  (∀ s : State, s.status = .running → s.host = [] → s.pc.toNat < 256 → s.imemRead s.pc.toNat = none →
    step s = .fault (.unwrittenImem s.pc.toNat)) ∧
  (∀ (s : State) (d : WReg) (a : BitVec 8), s.dmemRead a.toNat = none →
    exec (.ldw d a) s = .fault (.unwrittenDmem a.toNat)) ∧
  (∀ (s : State) (d : DReg) (a : BitVec 8), isOdd a = false → s.dmemRead a.toNat = none →
    exec (.ldd d a) s = .fault (.unwrittenDmem a.toNat)) ∧
  (∀ (s : State) (d : DReg) (a : BitVec 8) (v : Word), isOdd a = false → s.dmemRead a.toNat = some v →
    s.dmemRead (a.toNat + 1) = none → exec (.ldd d a) s = .fault (.unwrittenDmem (a.toNat + 1))) ∧
  (∀ (s : State) (es : List HostEvent) (off : BitVec 12) (n : Fin 256),
    s.host = .access (.read off 32) :: es → s.status ≠ .running →
      (off.toNat = 0x400 + 4 * n → s.imemRead n = none → step s = .fault (.unwrittenImem n)) ∧
      (off.toNat = 0x800 + 8 * n → (∃ i < 4, s.dmem.readByte (dmemByte n + i) = none) →
        step s = .fault (.unwrittenDmem n)) ∧
      (off.toNat = 0x804 + 8 * n → (∃ i < 4, s.dmem.readByte (dmemByte n + 4 + i) = none) →
        step s = .fault (.unwrittenDmem n)))

/-- R424: a core that is not running fetches nothing, and every piece of state survives. That it has a step
at all is the model's form (log 7). -/
def Obligations.StoppedCoreKeepsItsState : Prop :=
  ∀ s : State, s.status ≠ .running → s.host = [] → step s = .next s

/-- R51: STATUS changes only as the four listed transitions say. START and SRESET are the bits 0 and 1 of a
write of CTRL at offset 0. -/
def Obligations.StatusChangesOnlyAsListed : Prop :=
  ∀ s t : State, step s = .next t →
    t.status = s.status ∨
    (s.status ≠ .running ∧ t.status = .running ∧
      ∃ v es, s.host = .access (.write 0 32 v) :: es ∧ v.getLsbD 0 = true ∧ v.getLsbD 1 = false) ∨
    (s.status = .running ∧ t.status = .halted ∧
      ∃ w, s.imemRead s.pc.toNat = some w ∧ decode w = .ok .halt) ∨
    (s.status = .running ∧ t.status = .faulted ∧ t.cause ≠ .none ∧ t.epc = s.pc) ∨
    (t.status = .idle ∧
      ((∃ es, s.host = .powerOn :: es) ∨
        ∃ v es, s.host = .access (.write 0 32 v) :: es ∧ v.getLsbD 1 = true))

/-- R48: what PC becomes, for every instruction and every way it can complete. -/
def Obligations.PcAdvance : Prop :=
  ∀ (i : Instr) (s t : State), s.status = .running → exec i s = .next t →
    (t.status = .faulted → t.pc = s.pc) ∧
    (i = .halt → t.pc = s.pc) ∧
    (∀ x, i = .jmp x → t.pc = x.setWidth 9) ∧
    (∀ a b x, i = .bflt a b x →
      t.pc = if (flt (s.readW a) (s.readW b)).val then x.setWidth 9 else s.pc + 1) ∧
    (∀ a b x, i = .bfeq a b x →
      t.pc = if (feq (s.readW a) (s.readW b)).val then x.setWidth 9 else s.pc + 1) ∧
    (t.status ≠ .faulted → i ≠ .halt → isBranch i = false → t.pc = s.pc + 1)

/-! ### The host port (20_memory.md, 10_state.md R55 to R58) -/

/-- R55: CTRL reads 0; SRESET in any state and before START; START only while the core is not running, with
everything else kept; every other write does nothing. -/
def Obligations.CtrlCommands : Prop :=
  (∀ (s : State) (es : List HostEvent), s.host = .access (.read 0 32) :: es → s.status ≠ .running →
    step s = .next { s with host := es, hostReply := 0 }) ∧
  (∀ (s : State) (v : Half) (es : List HostEvent), s.host = .access (.write 0 32 v) :: es →
    step s = .next (
      if v.getLsbD 1 then
        { s with
          host := es, k := 0, pc := 0, fflags := 0, status := .idle, cause := .none, epc := 0, finst := 0 }
      else if v.getLsbD 0 = true ∧ s.status ≠ .running then
        { s with host := es, status := .running, cause := .none, epc := 0, finst := 0 }
      else { s with host := es }))

/-- R87: while the core runs, an access other than a read of STATUS or a write of CTRL is refused, and so is,
in every state, an access that is not 32 bits wide or not at a multiple of 4. Which name an access gets that
breaks both rules is the model's choice (log 13). -/
def Obligations.HostBreachesAreRefused : Prop :=
  (∀ (s : State) (a : HostAccess) (es : List HostEvent), s.host = .access a :: es → s.status = .running →
    (∀ off, a = .read off 32 → off.toNat % 4 = 0 → off ≠ 0x004 →
      step s = .refused .hostAccessWhileRunning) ∧
    (∀ off v, a = .write off 32 v → off.toNat % 4 = 0 → off ≠ 0x000 →
      step s = .refused .hostAccessWhileRunning)) ∧
  (∀ (s : State) (es : List HostEvent) (off : BitVec 12) (bits : Nat) (v : Half),
    bits ≠ 32 ∨ off.toNat % 4 ≠ 0 →
      (s.host = .access (.read off bits) :: es → step s = .refused .hostAccessMalformed) ∧
      (s.host = .access (.write off bits v) :: es → step s = .refused .hostAccessMalformed))

/-- R86, R87 and R89: a host read of a stopped core answers what the register map says, at every mapped offset, 0
at an unmapped one, and changes nothing else; a read of STATUS answers 1 while the core runs, and changes nothing
else either. -/
def Obligations.HostReadAnswersTheMap : Prop :=
  (∀ (s : State) (es : List HostEvent), s.host = .access (.read 0x004 32) :: es → s.status = .running →
    step s = .next { s with host := es, hostReply := 1 }) ∧
  ∀ (s : State) (es : List HostEvent) (off : BitVec 12) (v : Half),
    s.host = .access (.read off 32) :: es → s.status ≠ .running →
    ((off = 0x000 ∧ v = 0) ∨
     (off = 0x004 ∧ v = statusWord s.status) ∨ (off = 0x008 ∧ v = causeWord s.cause) ∨
     (off = 0x00C ∧ v = s.epc.setWidth 32) ∨ (off = 0x010 ∧ v = s.finst) ∨
     (off = 0x014 ∧ v = s.pc.setWidth 32) ∨ (off = 0x018 ∧ v = s.fflags.setWidth 32) ∨
     (off = 0x01C ∧ v = s.k) ∨ (off = 0x020 ∧ v = 0x44445801) ∨
     (∃ n : WReg, off.toNat = 0x100 + 8 * n ∧ v = (s.readW n).extractLsb' 0 32) ∨
     (∃ n : WReg, off.toNat = 0x104 + 8 * n ∧ v = (s.readW n).extractLsb' 32 32) ∨
     (∃ n : DReg, off.toNat = 0x180 + 16 * n ∧ v = (s.readD n).hi.extractLsb' 0 32) ∨
     (∃ n : DReg, off.toNat = 0x184 + 16 * n ∧ v = (s.readD n).hi.extractLsb' 32 32) ∨
     (∃ n : DReg, off.toNat = 0x188 + 16 * n ∧ v = (s.readD n).lo.extractLsb' 0 32) ∨
     (∃ n : DReg, off.toNat = 0x18C + 16 * n ∧ v = (s.readD n).lo.extractLsb' 32 32) ∨
     (∃ n : Fin 256, off.toNat = 0x400 + 4 * n ∧ s.imemRead n = some v) ∨
     (∃ (n : Fin 256) (x : Word), off.toNat = 0x800 + 8 * n ∧ s.dmemRead n = some x ∧
       v = x.extractLsb' 0 32) ∨
     (∃ (n : Fin 256) (x : Word), off.toNat = 0x804 + 8 * n ∧ s.dmemRead n = some x ∧
       v = x.extractLsb' 32 32) ∨
     (off.toNat % 4 = 0 ∧ 0x024 ≤ off.toNat ∧ off.toNat < 0x100 ∧ v = 0) ∨
     (off.toNat % 4 = 0 ∧ 0x200 ≤ off.toNat ∧ off.toNat < 0x400 ∧ v = 0)) →
    step s = .next { s with host := es, hostReply := v }

/-- R83, R84, R88: the host writes a 64-bit item by 32-bit halves, the low half at the lower offset; the word is
whole once both are written, and nothing else changes. IMEM is written a word at a time. That the two accesses
are events of two steps, and that the first keeps the other half, is the model's form (log 6, log 20). -/
def Obligations.HostWritesByHalves : Prop :=
  ∀ (s : State) (lo hi : Half), s.status ≠ .running →
    (∀ n : Fin 256,
      s.host = [.access (.write (BitVec.ofNat 12 (0x800 + 8 * n)) 32 lo),
                .access (.write (BitVec.ofNat 12 (0x804 + 8 * n)) 32 hi)] →
      ∃ t, stepN 2 s = some t ∧ StoresWord s t n (hi ++ lo) ∧
        { t with dmem := s.dmem, host := s.host } = s) ∧
    (∀ n : WReg,
      s.host = [.access (.write (BitVec.ofNat 12 (0x100 + 8 * n)) 32 lo),
                .access (.write (BitVec.ofNat 12 (0x104 + 8 * n)) 32 hi)] →
      stepN 2 s = some { s.writeW n (hi ++ lo) with host := [] }) ∧
    (∀ n : DReg,
      s.host = [.access (.write (BitVec.ofNat 12 (0x180 + 16 * n)) 32 lo),
                .access (.write (BitVec.ofNat 12 (0x184 + 16 * n)) 32 hi)] →
      stepN 2 s = some { s.writeD n ⟨hi ++ lo, (s.readD n).lo⟩ with host := [] }) ∧
    (∀ n : DReg,
      s.host = [.access (.write (BitVec.ofNat 12 (0x188 + 16 * n)) 32 lo),
                .access (.write (BitVec.ofNat 12 (0x18C + 16 * n)) 32 hi)] →
      stepN 2 s = some { s.writeD n ⟨(s.readD n).hi, hi ++ lo⟩ with host := [] }) ∧
    (∀ n : Fin 256, s.host = [.access (.write (BitVec.ofNat 12 (0x400 + 4 * n)) 32 lo)] →
      ∃ t, step s = .next t ∧ t.imemRead n = some lo ∧
        (∀ b, b < imemByte n ∨ imemByte n + 4 ≤ b → t.imem.readByte b = s.imem.readByte b) ∧
        { t with imem := s.imem, host := s.host } = s)

/-- R56, R57, R87: the host writes PC by its bits 8:0, FFLAGS by its bits 4:0 and K whole, while the core is not
running; a write to a read-only register or to an unmapped offset is ignored. -/
def Obligations.HostWritesControlRegisters : Prop :=
  ∀ (s : State) (v : Half) (off : BitVec 12) (es : List HostEvent),
    s.host = .access (.write off 32 v) :: es → s.status ≠ .running →
    (off = 0x014 → step s = .next { s with host := es, pc := v.setWidth 9 }) ∧
    (off = 0x018 → step s = .next { s with host := es, fflags := v.setWidth 5 }) ∧
    (off = 0x01C → step s = .next { s with host := es, k := v }) ∧
    (off = 0x004 ∨ off = 0x008 ∨ off = 0x00C ∨ off = 0x010 ∨ off = 0x020 ∨
      (off.toNat % 4 = 0 ∧ 0x024 ≤ off.toNat ∧ off.toNat < 0x100) ∨
      (off.toNat % 4 = 0 ∧ 0x200 ≤ off.toNat ∧ off.toNat < 0x400) →
      step s = .next { s with host := es })

/-! ### Reset and invariants -/

/-- R500: what power-on reset leaves, for the state whose value the spec gives, in whatever state it comes. That
an unwritten word has no value is R89's model fault (log 2); that the coefficients stay is log 18. -/
def Obligations.PowerOnResetState : Prop :=
  (∀ (s : State) (es : List HostEvent), s.host = .powerOn :: es →
    ∃ t, step s = .next t ∧ t.k = 0 ∧ t.pc = 0 ∧ t.fflags = 0 ∧ t.status = .idle ∧ t.cause = .none ∧
      t.epc = 0 ∧ t.finst = 0 ∧ (∀ a, t.imemRead a = none) ∧ (∀ a, t.dmemRead a = none) ∧
      t.polyP = s.polyP ∧ t.polyM = s.polyM) ∧
  State.reset.k = 0 ∧ State.reset.pc = 0 ∧ State.reset.fflags = 0 ∧ State.reset.status = .idle ∧
  State.reset.cause = .none ∧ State.reset.epc = 0 ∧ State.reset.finst = 0 ∧
  (∀ a, State.reset.imemRead a = none) ∧ (∀ a, State.reset.dmemRead a = none)

/-- Every step keeps both memories in canonical form and inside their address spaces (R80, R81). The form, bytes
by rising address, is the model's (log 3). -/
def Obligations.StepKeepsMemoriesCanonical : Prop :=
  ∀ s t : State, s.wf = true → step s = .next t → t.wf = true

/-- Every step keeps CAUSE, EPC and FINST telling the truth of R400's table, and STATUS FAULTED exactly while a
cause is recorded (R51 to R55, R402). -/
def Obligations.StepKeepsFaultRecord : Prop :=
  ∀ s t : State, s.faultRecord → step s = .next t → t.faultRecord

/-- The state after reset meets both invariants. -/
def Obligations.ResetMeetsTheInvariants : Prop :=
  State.reset.wf = true ∧ State.reset.faultRecord

/-- R60, R96: no step changes the ROM's coefficients, and no step of the core changes a byte of IMEM. -/
def Obligations.RomAndImemAreNotWritten : Prop :=
  (∀ s t : State, step s = .next t → t.polyP = s.polyP ∧ t.polyM = s.polyM) ∧
  (∀ s t : State, coreStep s = .next t → t.imem = s.imem)

/-- R42, R44, R46, R81: an instruction that is not a listed writer of word registers, of DD registers, of K or of
DMEM leaves them as they are. -/
def Obligations.OnlyListedWritersWrite : Prop :=
  ∀ (i : Instr) (s t : State), exec i s = .next t →
    (writesWordRegister i = false → KeepsW s t) ∧ (writesDDRegister i = false → KeepsD s t) ∧
    (writesK i = false → t.k = s.k) ∧ (writesDmem i = false → KeepsDmem s t)

/-- R50: no instruction clears a flag except FCLR. -/
def Obligations.OnlyFclrClearsFlags : Prop :=
  ∀ (i : Instr) (s t : State), exec i s = .next t → i ≠ .fclr → s.fflags &&& t.fflags = s.fflags

/-- R50: no instruction's behaviour depends on FFLAGS, but for FRD, which copies it. With other flags before it,
an instruction leaves the same state with the same flags OR'd in (R15), FCLR the same state with none, and a stop of
the model is the same stop. -/
def Obligations.NothingButFrdReadsFlags : Prop :=
  ∀ (i : Instr) (s : State) (f : Flags), (∀ d, i ≠ .frd d) →
    (∀ t, exec i s = .next t → i ≠ .fclr →
      ∃ acc, t.fflags = s.fflags ||| acc ∧
        exec i { s with fflags := f } = .next { t with fflags := f ||| acc }) ∧
    (∀ t, exec i s = .next t → i = .fclr → t.fflags = 0 ∧ exec i { s with fflags := f } = .next t) ∧
    (∀ e, exec i s = .fault e → exec i { s with fflags := f } = .fault e)

/-- R400, R402, R403: an instruction that faults is one of those listed, with the operand that makes it fault and
the cause listed, records its own word, and writes nothing else. The ill-formed DDEC, which no word decodes to, is
the model's (log 11). -/
def Obligations.FaultingInstructionWritesNothing : Prop :=
  ∀ (i : Instr) (s t : State), s.status = .running → exec i s = .next t → t.status = .faulted →
    TakesFault s t t.cause (encode i) ∧
    ((t.cause = .misaligned ∧ ∃ r a, isOdd a = true ∧ (i = .ldd r a ∨ i = .std r a)) ∨
     (t.cause = .range ∧
       ((∃ d a, i = .rred d a ∧ rredAdmits (s.readD a).hi = false) ∨
        (∃ d a, i = .rsclP d a ∧ rsclAdmits (s.readD a).hi = false) ∨
        (∃ d a, i = .rsclM d a ∧ rsclAdmits (s.readD a).hi = false))) ∨
     (t.cause = .illegal ∧ i.wf = false))

/-- R405, R406: every instruction answers a next state, which may be a fault entry, but for a load of a DMEM word
that nothing has written (log 2), and none is refused. That such a load is the ONLY stop is the model's choice: R406
stops at a W or D register that nothing has written too, and the model gives those a value at power-on instead
(log 1). -/
def Obligations.ExecStopsOnlyOnUnwrittenDmem : Prop :=
  ∀ (i : Instr) (s : State), (∃ t, exec i s = .next t) ∨
    ∃ a, exec i s = .fault (.unwrittenDmem a) ∧ s.dmemRead a = none ∧
      ((∃ d x, i = .ldw d x ∧ a = x.toNat) ∨
       (∃ d x, i = .ldd d x ∧ isOdd x = false ∧ (a = x.toNat ∨ a = x.toNat + 1)))

/-! ### Results of the system, move, memory and control instructions (42_data_control.md) -/

/-- R320 to R322: NOP only advances PC; HALT only sets STATUS, PC staying at the HALT; FCLR clears the flags. -/
def Obligations.NopHaltFclrResults : Prop :=
  ∀ s : State,
    (∃ t, exec .nop s = .next t ∧ t.pc = s.pc + 1 ∧ KeepsAllButPc s t) ∧
    (∃ t, exec .halt s = .next t ∧ t.status = .halted ∧ t.pc = s.pc ∧
      KeepsAllButPc s { t with status := s.status }) ∧
    (∃ t, exec .fclr s = .next t ∧ t.fflags = 0 ∧ t.pc = s.pc + 1 ∧
      KeepsAllButPc s { t with fflags := s.fflags })

/-- R323 to R325: FRD and KRD copy FFLAGS and K, zero-extended, to a word register; KWR copies a word register's
bits 31:0 to K. -/
def Obligations.FrdKrdKwrResults : Prop :=
  ∀ (s : State) (r : WReg),
    (∃ t, exec (.frd r) s = .next t ∧ WritesW s t r (s.fflags.setWidth 64) 0) ∧
    (∃ t, exec (.krd r) s = .next t ∧ WritesW s t r (s.k.setWidth 64) 0) ∧
    (∃ t, exec (.kwr r) s = .next t ∧ t.k = (s.readW r).extractLsb' 0 32 ∧ t.pc = s.pc + 1 ∧
      KeepsAllButPc s { t with k := s.k })

/-- R300, R301: LDW copies a written DMEM word to a word register; STW stores a word register and touches no
byte outside the stored word. -/
def Obligations.LdwStwResults : Prop :=
  ∀ (s : State) (r : WReg) (a : BitVec 8),
    (∀ v, s.dmemRead (dmemAddress a) = some v →
      ∃ t, exec (.ldw r a) s = .next t ∧ WritesW s t r v 0) ∧
    (∃ t, exec (.stw r a) s = .next t ∧ StoresWord s t (dmemAddress a) (s.readW r) ∧ t.pc = s.pc + 1 ∧
      KeepsAllButPc s { t with dmem := s.dmem })

/-- R302, R303 at an even address: LDD loads hi from it and lo from the next; STD stores hi at it and lo at the
next and touches no byte outside the two words. -/
def Obligations.LddStdResults : Prop :=
  ∀ (s : State) (r : DReg) (a : BitVec 8), a.toNat % 2 = 0 →
    (∀ h l, s.dmemRead (dmemAddress a) = some h → s.dmemRead (dmemAddress a + 1) = some l →
      ∃ t, exec (.ldd r a) s = .next t ∧ WritesD s t r ⟨h, l⟩ 0) ∧
    (∃ t, exec (.std r a) s = .next t ∧ t.dmemRead (dmemAddress a) = some (s.readD r).hi ∧
      t.dmemRead (dmemAddress a + 1) = some (s.readD r).lo ∧
      (∀ b, b < dmemByte (dmemAddress a) ∨ dmemByte (dmemAddress a) + 16 ≤ b →
        t.dmem.readByte b = s.dmem.readByte b) ∧
      t.pc = s.pc + 1 ∧ KeepsAllButPc s { t with dmem := s.dmem })

/-- R302, R303 at an odd address: LDD and STD take the MISALIGNED fault and access nothing. -/
def Obligations.OddDDAddressTakesMisaligned : Prop :=
  ∀ (s : State) (r : DReg) (a : BitVec 8), a.toNat % 2 = 1 →
    (∃ t, exec (.ldd r a) s = .next t ∧ TakesFault s t .misaligned (encode (.ldd r a))) ∧
    (∃ t, exec (.std r a) s = .next t ∧ TakesFault s t .misaligned (encode (.std r a)))

/-- R203 to R205, R304, R305: the moves copy bit for bit and raise nothing; DNEG flips the two sign bits; DMK and
DDEC do not renormalize; DDEC with one register twice is the illegal encoding of R132, which exec runs as its
fault by the model's choice (log 11). -/
def Obligations.MoveResults : Prop :=
  ∀ (s : State) (w w1 w2 : WReg) (d d1 : DReg),
    (∃ t, exec (.movw w w1) s = .next t ∧ WritesW s t w (s.readW w1) 0) ∧
    (∃ t, exec (.dmov d d1) s = .next t ∧ WritesD s t d (s.readD d1) 0) ∧
    (∃ t, exec (.dneg d d1) s = .next t ∧
      WritesD s t d ⟨(s.readD d1).hi ^^^ 0x8000000000000000#64, (s.readD d1).lo ^^^ 0x8000000000000000#64⟩ 0) ∧
    (∃ t, exec (.dmk d w1 w2) s = .next t ∧ WritesD s t d ⟨s.readW w1, s.readW w2⟩ 0) ∧
    (w1 ≠ w2 → ∃ t, exec (.ddec w1 w2 d) s = .next t ∧ t.readW w1 = (s.readD d).hi ∧
      t.readW w2 = (s.readD d).lo ∧ (∀ r, r ≠ w1 → r ≠ w2 → t.readW r = s.readW r) ∧ t.pc = s.pc + 1 ∧
      KeepsAllButPc s { t with w := s.w }) ∧
    (∃ t, exec (.ddec w1 w1 d) s = .next t ∧ TakesFault s t .illegal (encode (.ddec w1 w1 d)))

/-- R310 to R312: JMP goes to its target; BFLT and BFEQ go there when the quiet comparison holds and to the next
word otherwise, and raise NV exactly on a signalling NaN. -/
def Obligations.JumpAndBranchResults : Prop :=
  ∀ (s : State) (a b : WReg) (x : BitVec 8),
    (∃ t, exec (.jmp x) s = .next t ∧ t.pc = x.setWidth 9 ∧ KeepsAllButPc s t) ∧
    (∃ t, exec (.bflt a b x) s = .next t ∧
      t.pc = (if (flt (s.readW a) (s.readW b)).val then x.setWidth 9 else s.pc + 1) ∧
      t.fflags = s.fflags ||| (if isSNaN (s.readW a) || isSNaN (s.readW b) then flagNV else 0) ∧
      KeepsAllButPc s { t with fflags := s.fflags }) ∧
    (∃ t, exec (.bfeq a b x) s = .next t ∧
      t.pc = (if (feq (s.readW a) (s.readW b)).val then x.setWidth 9 else s.pc + 1) ∧
      t.fflags = s.fflags ||| (if isSNaN (s.readW a) || isSNaN (s.readW b) then flagNV else 0) ∧
      KeepsAllButPc s { t with fflags := s.fflags })

/-! ### Results of the kernel (40_dd_kernel.md) -/

/-- R206 to R208: SPLIT, TSUM and FTSUM leave the pair their sequences of primitives give and OR in the flags of
every primitive. Where a corner case's prose says otherwise the sequence is followed (log 23). -/
def Obligations.SplitAndSumResults : Prop :=
  ∀ (s : State) (d : DReg) (wa wb : WReg),
    let a := s.readW wa
    let b := s.readW wb
    (let x := fma a romSplitC a
     let y := fsub x.val a
     let hi := fsub x.val y.val
     let lo := fsub a hi.val
     ∃ t, exec (.split d wa) s = .next t ∧
       WritesD s t d ⟨hi.val, lo.val⟩ (x.flags ||| y.flags ||| hi.flags ||| lo.flags)) ∧
    (let x := fadd a b
     let bb := fsub x.val a
     let y := fsub x.val bb.val
     let p := fsub a y.val
     let q := fsub b bb.val
     let e := fadd p.val q.val
     ∃ t, exec (.tsum d wa wb) s = .next t ∧
       WritesD s t d ⟨x.val, e.val⟩
         (x.flags ||| bb.flags ||| y.flags ||| p.flags ||| q.flags ||| e.flags)) ∧
    (let x := fadd a b
     let y := fsub x.val a
     let e := fsub b y.val
     ∃ t, exec (.ftsum d wa wb) s = .next t ∧
       WritesD s t d ⟨x.val, e.val⟩ (x.flags ||| y.flags ||| e.flags))

/-- R209 to R211: DADDW, DADD and DSUB, over two_sum and fast_two_sum. Where a corner case's prose says otherwise the
sequence is followed (log 23). -/
def Obligations.DDAddResults : Prop :=
  ∀ (s : State) (d da db : DReg) (wb : WReg),
    let x := s.readD da
    (let u := twoSum x.hi (s.readW wb)
     let e := fadd u.val.lo x.lo
     let r := fastTwoSum u.val.hi e.val
     ∃ t, exec (.daddw d da wb) s = .next t ∧ WritesD s t d r.val (u.flags ||| e.flags ||| r.flags)) ∧
    (let sum := fun y : DD =>
       let u := twoSum x.hi y.hi
       let v := twoSum x.lo y.lo
       let p := fadd u.val.lo v.val.hi
       let q := fastTwoSum u.val.hi p.val
       let e := fadd q.val.lo v.val.lo
       let r := fastTwoSum q.val.hi e.val
       (r.val, u.flags ||| v.flags ||| p.flags ||| q.flags ||| e.flags ||| r.flags)
     (∃ t, exec (.dadd d da db) s = .next t ∧
       WritesD s t d (sum (s.readD db)).1 (sum (s.readD db)).2) ∧
     (∃ t, exec (.dsub d da db) s = .next t ∧
       WritesD s t d (sum ⟨fneg (s.readD db).hi, fneg (s.readD db).lo⟩).1
         (sum ⟨fneg (s.readD db).hi, fneg (s.readD db).lo⟩).2))

/-- R212, R213: TPROD and TSQR leave the product and its residual by one FMA; TSQR is TPROD of a word with
itself. Where a corner case's prose says otherwise
the sequence is followed (log 23). -/
def Obligations.WordProductResults : Prop :=
  ∀ (s : State) (d : DReg) (wa wb : WReg),
    let a := s.readW wa
    let b := s.readW wb
    (let p := fmul a b
     let e := fma a b (fneg p.val)
     ∃ t, exec (.tprod d wa wb) s = .next t ∧ WritesD s t d ⟨p.val, e.val⟩ (p.flags ||| e.flags)) ∧
    (let p := fmul a a
     let e := fma a a (fneg p.val)
     ∃ t, exec (.tsqr d wa) s = .next t ∧ WritesD s t d ⟨p.val, e.val⟩ (p.flags ||| e.flags)) ∧
    exec (.tsqr d wa) s = exec (.tprod d wa wa) s

/-- R214 to R216: DSQR, DMULW and DMUL, over two_sqr, two_prod and fast_two_sum. Where a corner case's prose says
otherwise the sequence is followed (log 23). -/
def Obligations.DDMultiplyResults : Prop :=
  ∀ (s : State) (d da db : DReg) (wb : WReg),
    let x := s.readD da
    let y := s.readD db
    let b := s.readW wb
    (let p := twoSqr x.hi
     let u := fmul romTwo x.hi
     let v := fmul u.val x.lo
     let e := fadd p.val.lo v.val
     let f := fma x.lo x.lo e.val
     let r := fastTwoSum p.val.hi f.val
     ∃ t, exec (.dsqr d da) s = .next t ∧
       WritesD s t d r.val (p.flags ||| u.flags ||| v.flags ||| e.flags ||| f.flags ||| r.flags)) ∧
    (let p := twoProd x.hi b
     let e := fma x.lo b p.val.lo
     let r := fastTwoSum p.val.hi e.val
     ∃ t, exec (.dmulw d da wb) s = .next t ∧ WritesD s t d r.val (p.flags ||| e.flags ||| r.flags)) ∧
    (let p := twoProd x.hi y.hi
     let u := fmul x.hi y.lo
     let v := fma x.lo y.hi u.val
     let e := fadd p.val.lo v.val
     let r := fastTwoSum p.val.hi e.val
     ∃ t, exec (.dmul d da db) s = .next t ∧
       WritesD s t d r.val (p.flags ||| u.flags ||| v.flags ||| e.flags ||| r.flags))

/-- R217, R218: DDIVW and DDIV, the two-quotient division; a division by zero completes like any other.
Where a corner case's prose says otherwise the sequence is followed (log 23). -/
def Obligations.DDDivideResults : Prop :=
  ∀ (s : State) (d da db : DReg) (wb : WReg),
    let x := s.readD da
    let y := s.readD db
    let b := s.readW wb
    (let q1 := fdiv x.hi b
     let p := twoProd q1.val b
     let u := twoSum x.hi (fneg p.val.hi)
     let v := fsub u.val.lo p.val.lo
     let e := fadd v.val x.lo
     let n := fadd u.val.hi e.val
     let q2 := fdiv n.val b
     let r := fastTwoSum q1.val q2.val
     ∃ t, exec (.ddivw d da wb) s = .next t ∧
       WritesD s t d r.val
         (q1.flags ||| p.flags ||| u.flags ||| v.flags ||| e.flags ||| n.flags ||| q2.flags ||| r.flags)) ∧
    (let q1 := fdiv x.hi y.hi
     let p := ddMulW y q1.val
     let u := twoSum x.hi (fneg p.val.hi)
     let v := fsub u.val.lo p.val.lo
     let e := fadd v.val x.lo
     let n := fadd u.val.hi e.val
     let q2 := fdiv n.val y.hi
     let r := fastTwoSum q1.val q2.val
     ∃ t, exec (.ddiv d da db) s = .next t ∧
       WritesD s t d r.val
         (q1.flags ||| p.flags ||| u.flags ||| v.flags ||| e.flags ||| n.flags ||| q2.flags ||| r.flags))

/-- R211: DNEG into a spare register and then DADD leave the same DD and the same flags as DSUB. -/
def Obligations.DsubIsDnegThenDadd : Prop :=
  ∀ (s : State) (d a b x : DReg), x ≠ a →
    ∃ t u, exec (.dsub d a b) s = .next t ∧ execAll [.dneg x b, .dadd d a x] s = some u ∧
      t.readD d = u.readD d ∧ t.fflags = u.fflags

/-! ### Results of the pipeline (41_exp_pipeline.md) -/

/-- R261: on an admitted y_hi RRED writes K and the residual. -/
def Obligations.RredResult : Prop :=
  ∀ (s : State) (d a : DReg),
    let y := s.readD a
    isNaN y.hi = false → 0 ≤ valUnits y.hi → valUnits y.hi ≤ valUnits romRredMax →
    let x := fma y.hi romInvL romShifter
    let kf := fsub x.val romShifter
    let rh := fma (fneg kf.val) romLHi y.hi
    let ph := fmul kf.val romLLo
    let pl := fma kf.val romLLo (fneg ph.val)
    let u := twoSum rh.val (fneg ph.val)
    let v := fsub u.val.lo pl.val
    let e := fadd v.val y.lo
    let r := fastTwoSum u.val.hi e.val
    ∃ t, exec (.rred d a) s = .next t ∧
      WritesD s { t with k := s.k } d r.val
        (x.flags ||| kf.flags ||| rh.flags ||| ph.flags ||| pl.flags ||| u.flags ||| v.flags |||
          e.flags ||| r.flags) ∧
      t.k = BitVec.ofNat 32 (magUnits kf.val / 2 ^ 1074)

/-- R261, R270: RRED on a NaN, a negative or a too large y_hi, and RSCL on an operand whose exponent field is 0
or 2047, take the RANGE fault. -/
def Obligations.RangeFaults : Prop :=
  (∀ (s : State) (d a : DReg),
    isNaN (s.readD a).hi = true ∨ valUnits (s.readD a).hi < 0 ∨
        valUnits romRredMax < valUnits (s.readD a).hi →
      ∃ t, exec (.rred d a) s = .next t ∧ TakesFault s t .range (encode (.rred d a))) ∧
  (∀ (s : State) (d : WReg) (a : DReg),
    expField (s.readD a).hi = 0 ∨ expField (s.readD a).hi = 2047 →
      (∃ t, exec (.rsclP d a) s = .next t ∧ TakesFault s t .range (encode (.rsclP d a))) ∧
      (∃ t, exec (.rsclM d a) s = .next t ∧ TakesFault s t .range (encode (.rsclM d a))))

/-- R262, R263: EPOLY leaves r²·P(r) ± r, with the coefficients of its variant, whatever they are. -/
def Obligations.EpolyResults : Prop :=
  ∀ (s : State) (d : DReg) (wa : WReg),
    let r := s.readW wa
    let poly := fun (cs : Config.Poly) (last : Word) =>
      let p1 := fma cs[0] r cs[1]
      let p2 := fma p1.val r cs[2]
      let p3 := fma p2.val r cs[3]
      let p4 := fma p3.val r cs[4]
      let sq := twoSqr r
      let q := ddMulW sq.val p4.val
      let e := ddAddW q.val last
      (e.val, p1.flags ||| p2.flags ||| p3.flags ||| p4.flags ||| sq.flags ||| q.flags ||| e.flags)
    (∃ t, exec (.epolyP d wa) s = .next t ∧ WritesD s t d (poly s.polyP r).1 (poly s.polyP r).2) ∧
    (∃ t, exec (.epolyM d wa) s = .next t ∧
      WritesD s t d (poly s.polyM (fneg r)).1 (poly s.polyM (fneg r)).2)

/-- R265 to R267: TCOMB leaves T + T·E with the table entry of K[4:0]; LCORR leaves 1 ± t + t²/2. For an infinite t
the pseudocode is followed where the prose says otherwise (log 22). What the tables hold is the statement
ExponentTablesAreRounded. -/
def Obligations.TcombLcorrResults : Prop :=
  ∀ (s : State) (d da : DReg) (wa : WReg),
    let comb := fun entry : DD =>
      let m := ddMul entry (s.readD da)
      let r := ddAdd entry m.val
      (r.val, m.flags ||| r.flags)
    let corr := fun last : Word =>
      let h := fmul romHalf (s.readW wa)
      let q := fma h.val (s.readW wa) last
      let r := fastTwoSum romOne q.val
      (r.val, h.flags ||| q.flags ||| r.flags)
    let j := s.k.toNat % 32
    (∃ entry t, romTabP[j]? = some entry ∧ exec (.tcombP d da) s = .next t ∧
      WritesD s t d (comb entry).1 (comb entry).2) ∧
    (∃ entry t, romTabM[j]? = some entry ∧ exec (.tcombM d da) s = .next t ∧
      WritesD s t d (comb entry).1 (comb entry).2) ∧
    (∃ t, exec (.lcorrP d wa) s = .next t ∧ WritesD s t d (corr (s.readW wa)).1 (corr (s.readW wa)).2) ∧
    (∃ t, exec (.lcorrM d wa) s = .next t ∧
      WritesD s t d (corr (fneg (s.readW wa))).1 (corr (fneg (s.readW wa))).2)

/-- R270: RSCL of a normal operand h by m = K[31:5] leaves h·2^(±m) correctly rounded once, with the flags that
RN gives it, in each of its four branches. -/
def Obligations.RsclRoundsTheScaledValue : Prop :=
  ∀ (s : State) (d : WReg) (a : DReg),
    let h := (s.readD a).hi
    let m := s.k.toNat / 32
    expField h ≠ 0 → expField h ≠ 2047 →
    (∃ t, exec (.rsclP d a) s = .next t ∧
      WritesW s t d (roundRN (signBit h) (magUnits h * 2 ^ m) 1).val
        (roundRN (signBit h) (magUnits h * 2 ^ m) 1).flags) ∧
    (∃ t, exec (.rsclM d a) s = .next t ∧
      WritesW s t d (roundRN (signBit h) (magUnits h) (2 ^ m)).val
        (roundRN (signBit h) (magUnits h) (2 ^ m)).flags)

/-- R290 to R293: EXPX2 and EXPMX2 complete on every word and write Wd and FFLAGS only; a NaN comes back quieted;
the trivial exit gives 1.0 and the saturation exit +∞ or +0, with the flags of R293. -/
def Obligations.ExpScreeningResults : Prop :=
  ∀ (s : State) (d a : WReg),
    let x := s.readW a
    let y := fmul x x
    (∃ t v f, exec (.expx2 d a) s = .next t ∧ WritesW s t d v f ∧
      (isNaN x = true → v = x ||| 0x0008000000000000#64 ∧ f = if isSNaN x then flagNV else 0) ∧
      (isNaN x = false → valUnits y.val < valUnits romTrivP → v = romOne ∧ f = y.flags) ∧
      (isNaN x = false → valUnits romOvfP < valUnits y.val →
        v = 0x7FF0000000000000#64 ∧ f = y.flags ||| if isInf x then 0 else flagOF ||| flagNX)) ∧
    (∃ t v f, exec (.expmx2 d a) s = .next t ∧ WritesW s t d v f ∧
      (isNaN x = true → v = x ||| 0x0008000000000000#64 ∧ f = if isSNaN x then flagNV else 0) ∧
      (isNaN x = false → valUnits y.val < valUnits romTrivM → v = romOne ∧ f = y.flags) ∧
      (isNaN x = false → valUnits romUnfM < valUnits y.val →
        v = 0 ∧ f = y.flags ||| if isInf x then 0 else flagUF ||| flagNX))

/-- R290 to R292: for an x that is not screened EXPX2 and EXPMX2 run the whole pipeline on x² and leave its
rescaled mantissa, with the flags of every step, wherever that mantissa is a normal number. Where it is not, the
model has a free value (log 10) and this says nothing. -/
def Obligations.ExpFullPathResults : Prop :=
  ∀ (s : State) (d a : WReg), isNaN (s.readW a) = false →
    let y := twoSqr (s.readW a)
    let path := fun (v : Variant) (cs : Config.Poly) =>
      let kr := rred y.val
      let e := epoly cs v kr.val.2.hi
      let m1 := tcomb v (kr.val.1 % 32) e.val
      let c := lcorr v kr.val.2.lo
      let m := ddMul m1.val c.val
      let r := rscl v m.val.hi (kr.val.1 / 32)
      (m.val.hi, r.val,
        y.flags ||| kr.flags ||| e.flags ||| m1.flags ||| c.flags ||| m.flags ||| r.flags)
    (valUnits romTrivP ≤ valUnits y.val.hi → valUnits y.val.hi ≤ valUnits romOvfP →
      rsclAdmits (path .P s.polyP).1 = true →
      ∃ t, exec (.expx2 d a) s = .next t ∧
        WritesW s t d (path .P s.polyP).2.1 (path .P s.polyP).2.2) ∧
    (valUnits romTrivM ≤ valUnits y.val.hi → valUnits y.val.hi ≤ valUnits romUnfM →
      rsclAdmits (path .M s.polyM).1 = true →
      ∃ t, exec (.expmx2 d a) s = .next t ∧
        WritesW s t d (path .M s.polyM).2.1 (path .M s.polyM).2.2)

/-- R295(a): past the screening of EXPX2 and EXPMX2 the high word of x² is always one that RRED admits. -/
def Obligations.ScreenedSquareIsAdmittedByRred : Prop :=
  ∀ (v : Variant) (x : Word), isNaN x = false →
    (flt (fmul x x).val (trivialBelow v)).val = false →
    (flt (saturatedAbove v) (fmul x x).val).val = false → rredAdmits (fmul x x).val = true

/-- R298: for an x that is not screened, the eight-instruction sequence leaves in W5 the word of EXPX2, or of
EXPMX2 with the .M variants, with the same flags from cleared ones, and K = k, the index of x², which EXPX2 and
EXPMX2 do not write; wherever the sequence runs through without a fault. A sequence that faults in RSCL is where
EXPX2 and EXPMX2 have a free value (log 10). -/
def Obligations.PipelineSequenceEqualsExp : Prop :=
  ∀ (s t : State), s.status = .running → s.fflags = 0 → isNaN (s.readW 0) = false →
    let y := (fmul (s.readW 0) (s.readW 0)).val
    let k := BitVec.ofNat 32 (magUnits (fsub (fma y romInvL romShifter).val romShifter).val / 2 ^ 1074)
    (valUnits romTrivP ≤ valUnits y → valUnits y ≤ valUnits romOvfP →
      execAll [.tsqr 0 0, .rred 1 0, .ddec 1 2 1, .epolyP 2 1, .tcombP 3 2, .lcorrP 4 2, .dmul 5 3 4,
        .rsclP 5 5] s = some t →
      t.status = .running →
      ∃ u, exec (.expx2 5 0) s = .next u ∧ t.readW 5 = u.readW 5 ∧ t.fflags = u.fflags ∧ t.k = k ∧
        u.k = s.k) ∧
    (valUnits romTrivM ≤ valUnits y → valUnits y ≤ valUnits romUnfM →
      execAll [.tsqr 0 0, .rred 1 0, .ddec 1 2 1, .epolyM 2 1, .tcombM 3 2, .lcorrM 4 2, .dmul 5 3 4,
        .rsclM 5 5] s = some t →
      t.status = .running →
      ∃ u, exec (.expmx2 5 0) s = .next u ∧ t.readW 5 = u.readW 5 ∧ t.fflags = u.fflags ∧ t.k = k ∧
        u.k = s.k)

/-- R297(b): EXPX2 and EXPMX2 give the same word and the same flags for x and for −x, for every x that is no
NaN. -/
def Obligations.ExpIsEven : Prop :=
  ∀ (s : State) (d a : WReg), isNaN (s.readW a) = false →
    let s' := s.writeW a (fneg (s.readW a))
    (∃ t u, exec (.expx2 d a) s = .next t ∧ exec (.expx2 d a) s' = .next u ∧
      t.readW d = u.readW d ∧ t.fflags = u.fflags) ∧
    (∃ t u, exec (.expmx2 d a) s = .next t ∧ exec (.expmx2 d a) s' = .next u ∧
      t.readW d = u.readW d ∧ t.fflags = u.fflags)

/-- R263: with the default coefficients EPOLY.M of r and EPOLY.P of −r give the same DD and the same flags, for
every r that is no NaN. -/
def Obligations.EpolyVariantsMirror : Prop :=
  ∀ r : Word, isNaN r = false → epoly romPolyM .M r = epoly romPolyP .P (fneg r)

/-- R268(a), (b): on every y_hi that RRED admits, K is the integer nearest to val(y_hi)·val(INV_L), the even one
where two are equally near, the kf it comes from is exactly that number, and it is at most 34400. The product is in
units of 2^−2148. -/
def Obligations.RredIndexIsExactAndBounded : Prop :=
  ∀ (s : State) (d a : DReg), rredAdmits (s.readD a).hi = true →
    let y := (s.readD a).hi
    let product := valUnits y * valUnits romInvL
    ∃ t, exec (.rred d a) s = .next t ∧ t.k.toNat ≤ 34400 ∧
      (t.k.toNat : Int) * 2 ^ 1074 = valUnits (fsub (fma y romInvL romShifter).val romShifter).val ∧
      2 * |(t.k.toNat : Int) * 2 ^ 2148 - product| ≤ 2 ^ 2148 ∧
      (2 * |(t.k.toNat : Int) * 2 ^ 2148 - product| = 2 ^ 2148 → t.k.toNat % 2 = 0)

/-! ### Binary64 (00_scope.md) -/

/-- R14: RN of a nonzero magnitude num/den, in units of 2^−1074, keeps the sign and, unless it overflows, is a
finite word nearest to it, an even one where two are equally near. It overflows exactly from half an ulp
above the largest finite magnitude on. -/
def Obligations.RoundingIsToNearestEven : Prop :=
  ∀ (neg : Bool) (num den : Nat), 0 < num → 0 < den →
    let r := (roundRN neg num den).val
    signBit r = neg ∧ isNaN r = false ∧
    (isInf r = true ↔ (2 ^ 2098 - 2 ^ 2044) * den ≤ num) ∧
    (isInf r = false → ∀ x : Word, isNaN x = false → isInf x = false →
      |(magUnits r * den : Int) - num| ≤ |(magUnits x * den : Int) - num| ∧
      (|(magUnits r * den : Int) - num| = |(magUnits x * den : Int) - num| → magUnits x ≠ magUnits r →
        r.getLsbD 0 = false))

/-- R14: the flags of RN. OF with NX on overflow; otherwise NX exactly when the result is not exact, UF exactly
when it is also tiny, tininess taken after rounding. -/
def Obligations.RoundingFlags : Prop :=
  ∀ (neg : Bool) (num den : Nat), 0 < num → 0 < den →
    let r := roundRN neg num den
    (isInf r.val = true → r.flags = flagOF ||| flagNX) ∧
    (isInf r.val = false → magUnits r.val * den = num → r.flags = 0) ∧
    (isInf r.val = false → magUnits r.val * den ≠ num → 4 * num < (2 ^ 54 - 1) * den →
      r.flags = flagUF ||| flagNX) ∧
    (isInf r.val = false → magUnits r.val * den ≠ num → (2 ^ 54 - 1) * den ≤ 4 * num → r.flags = flagNX)

/-- R14: RN of the value of a nonzero finite word is the word, with no flag. -/
def Obligations.RepresentableValuesRoundToThemselves : Prop :=
  ∀ (x : Word) (den : Nat), 0 < den → isNaN x = false → isInf x = false → isZero x = false →
    roundRN (signBit x) (magUnits x * den) den = ⟨x, 0⟩

/-- R16: on finite operands each primitive rounds the exact result once; a nonzero finite value over a zero is an
infinity with DZ; exact zero sums and zero products and quotients have the signs R16 gives. What R16 leaves to
IEEE 754 is the model's reading: the sign of FSUB's exact zero (log 16), the sign of FMA's exact zero (log 19), and
every infinite operand that makes no invalid operation, a number over ∞ and ∞ over a zero among them (log 17). -/
def Obligations.PrimitivesOnNumbers : Prop :=
  ∀ a b c : Word, isNaN a = false → isNaN b = false → isNaN c = false →
    (isInf a = false → isInf b = false → valUnits a + valUnits b ≠ 0 →
      fadd a b = roundRN (decide (valUnits a + valUnits b < 0)) (valUnits a + valUnits b).natAbs 1) ∧
    (isInf a = false → isInf b = false → valUnits a - valUnits b ≠ 0 →
      fsub a b = roundRN (decide (valUnits a - valUnits b < 0)) (valUnits a - valUnits b).natAbs 1) ∧
    (isInf a = false → isInf b = false → valUnits a + valUnits b = 0 →
      fadd a b = if isZero a = true ∧ a = b then ⟨a, 0⟩ else ⟨0, 0⟩) ∧
    (isInf a = false → isInf b = false → valUnits a - valUnits b = 0 →
      fsub a b = if isZero a = true ∧ b = fneg a then ⟨a, 0⟩ else ⟨0, 0⟩) ∧
    (isInf a = false → isInf b = false → valUnits a * valUnits b ≠ 0 →
      fmul a b = roundRN (signBit a != signBit b) (magUnits a * magUnits b) (2 ^ 1074)) ∧
    (isInf a = false → isInf b = false → valUnits a * valUnits b = 0 →
      fmul a b = ⟨if signBit a != signBit b then 0x8000000000000000#64 else 0, 0⟩) ∧
    (isInf a = false → isInf b = false → valUnits a ≠ 0 → valUnits b ≠ 0 →
      fdiv a b = roundRN (signBit a != signBit b) (magUnits a * 2 ^ 1074) (magUnits b)) ∧
    (isZero a = true → isZero b = false →
      fdiv a b = ⟨if signBit a != signBit b then 0x8000000000000000#64 else 0, 0⟩) ∧
    (isInf a = false → valUnits a ≠ 0 → isZero b = true →
      fdiv a b =
        ⟨if signBit a != signBit b then 0xFFF0000000000000#64 else 0x7FF0000000000000#64, flagDZ⟩) ∧
    (isInf a = false → isInf b = false → isInf c = false →
      valUnits a * valUnits b + valUnits c * 2 ^ 1074 ≠ 0 →
      fma a b c = roundRN (decide (valUnits a * valUnits b + valUnits c * 2 ^ 1074 < 0))
        (valUnits a * valUnits b + valUnits c * 2 ^ 1074).natAbs (2 ^ 1074)) ∧
    (isInf a = false → isInf b = false → isInf c = false →
      valUnits a * valUnits b + valUnits c * 2 ^ 1074 = 0 →
      fma a b c =
        ⟨if (signBit a != signBit b) && signBit c then 0x8000000000000000#64 else 0, 0⟩) ∧
    (isInf a = true → (isInf b = true → signBit a = signBit b) →
      fadd a b = ⟨a, 0⟩ ∧ fadd b a = ⟨a, 0⟩) ∧
    (isInf a = true → (isInf b = true → signBit a ≠ signBit b) →
      fsub a b = ⟨a, 0⟩ ∧ fsub b a = ⟨fneg a, 0⟩) ∧
    (isInf a = true → isZero b = false →
      let v := if signBit a != signBit b then 0xFFF0000000000000#64 else 0x7FF0000000000000#64
      fmul a b = ⟨v, 0⟩ ∧ fmul b a = ⟨v, 0⟩) ∧
    (isInf a = true → isInf b = false →
      fdiv a b =
        ⟨if signBit a != signBit b then 0xFFF0000000000000#64 else 0x7FF0000000000000#64, 0⟩ ∧
      fdiv b a = ⟨if signBit a != signBit b then 0x8000000000000000#64 else 0, 0⟩) ∧
    (isInf a = true → isZero b = false → (isInf c = true → signBit c = (signBit a != signBit b)) →
      let v := if signBit a != signBit b then 0xFFF0000000000000#64 else 0x7FF0000000000000#64
      fma a b c = ⟨v, 0⟩ ∧ fma b a c = ⟨v, 0⟩) ∧
    (isInf a = false → isInf b = false → isInf c = true → fma a b c = ⟨c, 0⟩)

/-- R17: the NaN rule of the five primitives. -/
def Obligations.NanRule : Prop :=
  ∀ a b c : Word,
    let nv2 : Flags := if isSNaN a || isSNaN b then flagNV else 0
    let nv3 : Flags := if isSNaN a || isSNaN b || isSNaN c then flagNV else 0
    (isNaN a = true → fadd a b = ⟨quietNaN a, nv2⟩ ∧ fsub a b = ⟨quietNaN a, nv2⟩ ∧
      fmul a b = ⟨quietNaN a, nv2⟩ ∧ fdiv a b = ⟨quietNaN a, nv2⟩ ∧ fma a b c = ⟨quietNaN a, nv3⟩) ∧
    (isNaN a = false → isNaN b = true → fadd a b = ⟨quietNaN b, nv2⟩ ∧ fsub a b = ⟨quietNaN b, nv2⟩ ∧
      fmul a b = ⟨quietNaN b, nv2⟩ ∧ fdiv a b = ⟨quietNaN b, nv2⟩ ∧ fma a b c = ⟨quietNaN b, nv3⟩) ∧
    (isNaN a = false → isNaN b = false → isNaN c = true →
      fma a b c = ⟨quietNaN c, if zeroTimesInf a b then flagNV else nv3⟩) ∧
    (isInf a = true → isInf b = true →
      (signBit a ≠ signBit b → fadd a b = ⟨0x7FF8000000000000#64, flagNV⟩) ∧
      (signBit a = signBit b → fsub a b = ⟨0x7FF8000000000000#64, flagNV⟩) ∧
      fdiv a b = ⟨0x7FF8000000000000#64, flagNV⟩) ∧
    (isZero a = true → isInf b = true →
      fmul a b = ⟨0x7FF8000000000000#64, flagNV⟩ ∧ fmul b a = ⟨0x7FF8000000000000#64, flagNV⟩ ∧
      (isNaN c = false → fma a b c = ⟨0x7FF8000000000000#64, flagNV⟩ ∧
        fma b a c = ⟨0x7FF8000000000000#64, flagNV⟩)) ∧
    (isZero a = true → isZero b = true → fdiv a b = ⟨0x7FF8000000000000#64, flagNV⟩) ∧
    (isInf a = true → isNaN b = false → isZero b = false → isInf c = true →
      signBit c ≠ (signBit a != signBit b) → fma a b c = ⟨0x7FF8000000000000#64, flagNV⟩ ∧
        fma b a c = ⟨0x7FF8000000000000#64, flagNV⟩)

/-- R18: the quiet comparisons. -/
def Obligations.QuietComparisons : Prop :=
  ∀ a b : Word,
    (flt a b).flags = (if isSNaN a || isSNaN b then flagNV else 0) ∧
    (feq a b).flags = (if isSNaN a || isSNaN b then flagNV else 0) ∧
    (isNaN a = true ∨ isNaN b = true → (flt a b).val = false ∧ (feq a b).val = false) ∧
    (isNaN a = false → isNaN b = false →
      ((feq a b).val = true ↔ a = b ∨ (isZero a = true ∧ isZero b = true)) ∧
      (isInf a = false → isInf b = false → ((flt a b).val = true ↔ valUnits a < valUnits b)) ∧
      (a = 0xFFF0000000000000#64 → ((flt a b).val = true ↔ b ≠ 0xFFF0000000000000#64)) ∧
      (b = 0x7FF0000000000000#64 → ((flt a b).val = true ↔ a ≠ 0x7FF0000000000000#64)) ∧
      (a = 0x7FF0000000000000#64 → (flt a b).val = false) ∧
      (b = 0xFFF0000000000000#64 → (flt a b).val = false))

/-- R219(c): the two words of TPROD add up to the exact product, for finite operands whose product does not
overflow and whose exponents add up to at least −969. In units of 2^−2148. -/
def Obligations.TwoProdIsExact : Prop :=
  ∀ a b : Word, isNaN a = false → isInf a = false → isNaN b = false → isInf b = false →
    1077 ≤ expField a + expField b → isInf (fmul a b).val = false →
    let r := (twoProd a b).val
    valUnits r.hi * 2 ^ 1074 + valUnits r.lo * 2 ^ 1074 = valUnits a * valUnits b

/-! ### The exponent tables (10_state.md R61) -/

/-- R61: every entry of TAB_P and TAB_M is hi = RN(v), lo = RN(v − val(hi)) for the real v = 2^(j/32) or 2^(−j/32),
and TAB_M[j] is half of TAB_P[32 − j], word by word. As v is irrational for j ≥ 1, it is bracketed: n/2^200 and
(n + 1)/2^200 lie on its two sides, and RN takes both to the same word. -/
def Obligations.ExponentTablesAreRounded : Prop :=
  let rounds := fun (n : Nat) (entry : DD) =>
    (roundRN false (n * 2 ^ 1074) (2 ^ 200)).val = entry.hi ∧
      (let rest := (n : Int) * 2 ^ 1074 - valUnits entry.hi * 2 ^ 200
       (roundRN (decide (rest < 0)) rest.natAbs (2 ^ 200)).val = entry.lo)
  romTabP.length = 32 ∧ romTabM.length = 32 ∧
  romTabP[0]? = some ⟨romOne, 0⟩ ∧ romTabM[0]? = some ⟨romOne, 0⟩ ∧
  ∀ j, 1 ≤ j → j < 32 →
    (∃ n entry, romTabP[j]? = some entry ∧ n ^ 32 < 2 ^ (6400 + j) ∧ 2 ^ (6400 + j) < (n + 1) ^ 32 ∧
      rounds n entry ∧ rounds (n + 1) entry) ∧
    (∃ n entry, romTabM[j]? = some entry ∧ n ^ 32 < 2 ^ (6400 - j) ∧ 2 ^ (6400 - j) < (n + 1) ^ 32 ∧
      rounds n entry ∧ rounds (n + 1) entry) ∧
    (∃ p m, romTabP[32 - j]? = some p ∧ romTabM[j]? = some m ∧
      valUnits p.hi = 2 * valUnits m.hi ∧ valUnits p.lo = 2 * valUnits m.lo)
end

