-- ==== Sys2Proof/Laws/Memory.lean ====
section
/-! SUPPORT. Memory: a read after a write, and the canonical form that every write keeps. -/

namespace Sys2Proof.Machine

/-! ### One byte -/

theorem Memory.readByte_writeByte (m : Memory) (a b : Nat) (x : Byte) :
    (m.writeByte a x).readByte b = if b = a then some x else m.readByte b := by
  induction m with
  | nil => simp [Memory.writeByte, Memory.readByte]
  | cons c m ih =>
    obtain ⟨k, y⟩ := c
    simp only [Memory.writeByte]
    split
    · simp [Memory.readByte]
    · split
      · next h => subst h; simp only [Memory.readByte]; split <;> rfl
      · next h1 h2 =>
        simp only [Memory.readByte, ih]
        split
        · next hb => subst hb; rw [if_neg (fun e => h2 e.symm)]
        · rfl

@[simp] theorem Memory.readByte_writeByte_self (m : Memory) (a : Nat) (x : Byte) :
    (m.writeByte a x).readByte a = some x := by
  simp [Memory.readByte_writeByte]

theorem Memory.readByte_writeByte_of_ne (m : Memory) (a b : Nat) (x : Byte) (h : b ≠ a) :
    (m.writeByte a x).readByte b = m.readByte b := by
  simp [Memory.readByte_writeByte, h]

/-! ### Little-endian groups -/

/-- A group write leaves every byte outside it alone. -/
theorem Memory.readByte_writeLE_outside (n : Nat) (m : Memory) (a v b : Nat) (h : b < a ∨ a + n ≤ b) :
    (m.writeLE a n v).readByte b = m.readByte b := by
  induction n generalizing m a v with
  | zero => rfl
  | succ n ih =>
    rw [Memory.writeLE, ih _ _ _ (by omega), Memory.readByte_writeByte_of_ne _ _ _ _ (by omega)]

/-- A group write stores the bytes of the number, the lowest first. -/
theorem Memory.readByte_writeLE_inside (n : Nat) (m : Memory) (a v i : Nat) (h : i < n) :
    (m.writeLE a n v).readByte (a + i) = some (BitVec.ofNat 8 (v / 256 ^ i)) := by
  induction n generalizing m a v i with
  | zero => omega
  | succ n ih =>
    rw [Memory.writeLE]
    cases i with
    | zero => rw [Memory.readByte_writeLE_outside _ _ _ _ _ (by omega)]; simp
    | succ i =>
      have e : a + (i + 1) = a + 1 + i := by omega
      rw [e, ih _ _ _ _ (by omega), Nat.div_div_eq_div_mul, ← Nat.pow_succ']

/-- A group read is the number of its bytes. -/
theorem Memory.readLE_of_bytes (n : Nat) (m : Memory) (a v : Nat)
    (h : ∀ i, i < n → m.readByte (a + i) = some (BitVec.ofNat 8 (v / 256 ^ i))) :
    m.readLE a n = some (v % 256 ^ n) := by
  induction n generalizing a v with
  | zero => simp [Memory.readLE, Nat.mod_one]
  | succ n ih =>
    have h0 := h 0 (by omega)
    have hr := ih (a + 1) (v / 256) (fun i hi => by
      have := h (i + 1) (by omega)
      rwa [Nat.pow_succ', ← Nat.div_div_eq_div_mul,
        show a + (i + 1) = a + 1 + i from by omega] at this)
    simp only [Nat.add_zero, Nat.pow_zero, Nat.div_one] at h0
    have hv : v % 256 ^ (n + 1) = v % 256 + 256 * (v / 256 % 256 ^ n) := by
      rw [Nat.pow_succ', Nat.mod_mul]
    simp only [Memory.readLE, h0, hr, BitVec.toNat_ofNat, hv]

/-- Two memories with the same bytes in a group read the same there. -/
theorem Memory.readLE_congr (n : Nat) (m m' : Memory) (a : Nat)
    (h : ∀ b, a ≤ b → b < a + n → m.readByte b = m'.readByte b) : m.readLE a n = m'.readLE a n := by
  induction n generalizing a with
  | zero => rfl
  | succ n ih =>
    rw [Memory.readLE, Memory.readLE, h a (by omega) (by omega),
      ih (a + 1) (fun b h1 h2 => h b (by omega) (by omega))]

/-- A group read after a write of the same group. -/
theorem Memory.readLE_writeLE_same (n : Nat) (m : Memory) (a v : Nat) :
    (m.writeLE a n v).readLE a n = some (v % 256 ^ n) :=
  Memory.readLE_of_bytes n _ a v (fun i hi => Memory.readByte_writeLE_inside n m a v i hi)

/-- A group read after a write of a disjoint group. -/
theorem Memory.readLE_writeLE_disjoint (n k : Nat) (m : Memory) (a b v : Nat)
    (h : a + n ≤ b ∨ b + k ≤ a) : (m.writeLE a n v).readLE b k = m.readLE b k :=
  Memory.readLE_congr k _ _ b (fun c h1 h2 => Memory.readByte_writeLE_outside n m a v c (by omega))

/-! ### Words -/

@[simp] theorem State.dmemRead_dmemWrite_self (s : State) (a : Nat) (v : Word) :
    (s.dmemWrite a v).dmemRead a = some v := by
  simp only [State.dmemRead, State.dmemWrite, Memory.readLE_writeLE_same, Option.map_some]
  rw [Nat.mod_eq_of_lt (by have := v.isLt; omega), BitVec.ofNat_toNat, BitVec.setWidth_eq]

theorem State.dmemRead_dmemWrite_of_ne (s : State) (a b : Nat) (v : Word) (h : b ≠ a) :
    (s.dmemWrite a v).dmemRead b = s.dmemRead b := by
  simp only [State.dmemRead, State.dmemWrite]
  rw [Memory.readLE_writeLE_disjoint]
  simp only [dmemByte]; omega

@[simp] theorem State.imemRead_imemWrite_self (s : State) (a : Nat) (v : Half) :
    (s.imemWrite a v).imemRead a = some v := by
  simp only [State.imemRead, State.imemWrite, Memory.readLE_writeLE_same, Option.map_some]
  rw [Nat.mod_eq_of_lt (by have := v.isLt; omega), BitVec.ofNat_toNat, BitVec.setWidth_eq]

theorem State.imemRead_imemWrite_of_ne (s : State) (a b : Nat) (v : Half) (h : b ≠ a) :
    (s.imemWrite a v).imemRead b = s.imemRead b := by
  simp only [State.imemRead, State.imemWrite]
  rw [Memory.readLE_writeLE_disjoint]
  simp only [imemByte]; omega

/-! ### The canonical form -/

/-- A write puts nothing before the first address but its own. -/
theorem Memory.wf_cons_writeByte (k : Nat) (y : Byte) (m : Memory) (a : Nat) (x : Byte)
    (hm : Memory.wf ((k, y) :: m) = true) (ha : k < a) :
    Memory.wf ((k, y) :: m.writeByte a x) = true := by
  induction m generalizing k y with
  | nil => simp [Memory.writeByte, Memory.wf, ha]
  | cons c m ih =>
    obtain ⟨j, z⟩ := c
    simp only [Memory.wf, Bool.and_eq_true, decide_eq_true_eq] at hm
    simp only [Memory.writeByte]
    split
    · next h => simp [Memory.wf, ha, h, hm.2]
    · split
      · next h =>
        subst h
        have h2 := hm.2
        cases m with
        | nil => simp [Memory.wf, ha]
        | cons c' m' =>
          obtain ⟨j', z'⟩ := c'
          simp only [Memory.wf, Bool.and_eq_true, decide_eq_true_eq] at h2 ⊢
          exact ⟨ha, h2.1, h2.2⟩
      · next h1 h2 =>
        have := ih j z hm.2 (by omega)
        simp [Memory.wf, hm.1, this]

/-- Every byte write keeps the canonical form. -/
theorem Memory.writeByte_wf (m : Memory) (a : Nat) (x : Byte) (hm : m.wf = true) :
    (m.writeByte a x).wf = true := by
  cases m with
  | nil => rfl
  | cons c m =>
    obtain ⟨k, y⟩ := c
    simp only [Memory.writeByte]
    split
    · next h => simp [Memory.wf, h, hm]
    · split
      · next h =>
        subst h
        cases m with
        | nil => rfl
        | cons c' m' => obtain ⟨j, z⟩ := c'; simpa [Memory.wf] using hm
      · next h1 h2 => exact Memory.wf_cons_writeByte k y m a x hm (by omega)

/-- Every group write keeps the canonical form. -/
theorem Memory.writeLE_wf (n : Nat) (m : Memory) (a v : Nat) (hm : m.wf = true) :
    (m.writeLE a n v).wf = true := by
  induction n generalizing m a v with
  | zero => exact hm
  | succ n ih => exact ih _ _ _ (Memory.writeByte_wf m a _ hm)

theorem Memory.writeByte_within (m : Memory) (bound a : Nat) (x : Byte)
    (hm : m.within bound = true) (ha : a < bound) : (m.writeByte a x).within bound = true := by
  induction m with
  | nil => simp [Memory.writeByte, Memory.within, ha]
  | cons c m ih =>
    obtain ⟨k, y⟩ := c
    simp only [Memory.within, List.all_cons, Bool.and_eq_true, decide_eq_true_eq] at hm ih
    simp only [Memory.writeByte]
    split
    · simp [Memory.within, ha, hm.1]; simpa using hm.2
    · split
      · simp [Memory.within, ha]; simpa using hm.2
      · have := ih hm.2
        simp only [Memory.within, List.all_cons, Bool.and_eq_true, decide_eq_true_eq]
        exact ⟨hm.1, this⟩

/-- A group write inside the bound keeps every address inside it. -/
theorem Memory.writeLE_within (n : Nat) (m : Memory) (bound a v : Nat)
    (hm : m.within bound = true) (ha : a + n ≤ bound) : (m.writeLE a n v).within bound = true := by
  induction n generalizing m a v with
  | zero => exact hm
  | succ n ih => exact ih _ _ _ (Memory.writeByte_within m bound a _ hm (by omega)) (by omega)

end Sys2Proof.Machine
end

