-- ==== Sys2Proof/Laws/State.lean ====
section
/-! SUPPORT. What each named update of the state does to each field, and to the reads of registers and
memory words. -/

namespace Sys2Proof.Machine

section
variable (s : State)

/-! ### writeW -/

@[simp] theorem State.writeW_w (r : WReg) (v : Word) : (s.writeW r v).w = s.w.set r v := rfl
@[simp] theorem State.writeW_d (r : WReg) (v : Word) : (s.writeW r v).d = s.d := rfl
@[simp] theorem State.writeW_k (r : WReg) (v : Word) : (s.writeW r v).k = s.k := rfl
@[simp] theorem State.writeW_pc (r : WReg) (v : Word) : (s.writeW r v).pc = s.pc := rfl
@[simp] theorem State.writeW_fflags (r : WReg) (v : Word) : (s.writeW r v).fflags = s.fflags := rfl
@[simp] theorem State.writeW_status (r : WReg) (v : Word) : (s.writeW r v).status = s.status := rfl
@[simp] theorem State.writeW_cause (r : WReg) (v : Word) : (s.writeW r v).cause = s.cause := rfl
@[simp] theorem State.writeW_epc (r : WReg) (v : Word) : (s.writeW r v).epc = s.epc := rfl
@[simp] theorem State.writeW_finst (r : WReg) (v : Word) : (s.writeW r v).finst = s.finst := rfl
@[simp] theorem State.writeW_imem (r : WReg) (v : Word) : (s.writeW r v).imem = s.imem := rfl
@[simp] theorem State.writeW_dmem (r : WReg) (v : Word) : (s.writeW r v).dmem = s.dmem := rfl
@[simp] theorem State.writeW_polyP (r : WReg) (v : Word) : (s.writeW r v).polyP = s.polyP := rfl
@[simp] theorem State.writeW_polyM (r : WReg) (v : Word) : (s.writeW r v).polyM = s.polyM := rfl
@[simp] theorem State.writeW_host (r : WReg) (v : Word) : (s.writeW r v).host = s.host := rfl
@[simp] theorem State.writeW_hostReply (r : WReg) (v : Word) : (s.writeW r v).hostReply = s.hostReply := rfl

/-! ### writeD -/

@[simp] theorem State.writeD_w (r : DReg) (v : DD) : (s.writeD r v).w = s.w := rfl
@[simp] theorem State.writeD_d (r : DReg) (v : DD) : (s.writeD r v).d = s.d.set r v := rfl
@[simp] theorem State.writeD_k (r : DReg) (v : DD) : (s.writeD r v).k = s.k := rfl
@[simp] theorem State.writeD_pc (r : DReg) (v : DD) : (s.writeD r v).pc = s.pc := rfl
@[simp] theorem State.writeD_fflags (r : DReg) (v : DD) : (s.writeD r v).fflags = s.fflags := rfl
@[simp] theorem State.writeD_status (r : DReg) (v : DD) : (s.writeD r v).status = s.status := rfl
@[simp] theorem State.writeD_cause (r : DReg) (v : DD) : (s.writeD r v).cause = s.cause := rfl
@[simp] theorem State.writeD_epc (r : DReg) (v : DD) : (s.writeD r v).epc = s.epc := rfl
@[simp] theorem State.writeD_finst (r : DReg) (v : DD) : (s.writeD r v).finst = s.finst := rfl
@[simp] theorem State.writeD_imem (r : DReg) (v : DD) : (s.writeD r v).imem = s.imem := rfl
@[simp] theorem State.writeD_dmem (r : DReg) (v : DD) : (s.writeD r v).dmem = s.dmem := rfl
@[simp] theorem State.writeD_polyP (r : DReg) (v : DD) : (s.writeD r v).polyP = s.polyP := rfl
@[simp] theorem State.writeD_polyM (r : DReg) (v : DD) : (s.writeD r v).polyM = s.polyM := rfl
@[simp] theorem State.writeD_host (r : DReg) (v : DD) : (s.writeD r v).host = s.host := rfl
@[simp] theorem State.writeD_hostReply (r : DReg) (v : DD) : (s.writeD r v).hostReply = s.hostReply := rfl

/-! ### writeK -/

@[simp] theorem State.writeK_w (v : Half) : (s.writeK v).w = s.w := rfl
@[simp] theorem State.writeK_d (v : Half) : (s.writeK v).d = s.d := rfl
@[simp] theorem State.writeK_k (v : Half) : (s.writeK v).k = v := rfl
@[simp] theorem State.writeK_pc (v : Half) : (s.writeK v).pc = s.pc := rfl
@[simp] theorem State.writeK_fflags (v : Half) : (s.writeK v).fflags = s.fflags := rfl
@[simp] theorem State.writeK_status (v : Half) : (s.writeK v).status = s.status := rfl
@[simp] theorem State.writeK_cause (v : Half) : (s.writeK v).cause = s.cause := rfl
@[simp] theorem State.writeK_epc (v : Half) : (s.writeK v).epc = s.epc := rfl
@[simp] theorem State.writeK_finst (v : Half) : (s.writeK v).finst = s.finst := rfl
@[simp] theorem State.writeK_imem (v : Half) : (s.writeK v).imem = s.imem := rfl
@[simp] theorem State.writeK_dmem (v : Half) : (s.writeK v).dmem = s.dmem := rfl
@[simp] theorem State.writeK_polyP (v : Half) : (s.writeK v).polyP = s.polyP := rfl
@[simp] theorem State.writeK_polyM (v : Half) : (s.writeK v).polyM = s.polyM := rfl
@[simp] theorem State.writeK_host (v : Half) : (s.writeK v).host = s.host := rfl
@[simp] theorem State.writeK_hostReply (v : Half) : (s.writeK v).hostReply = s.hostReply := rfl

/-! ### raiseFlags -/

@[simp] theorem State.raiseFlags_w (f : Flags) : (s.raiseFlags f).w = s.w := rfl
@[simp] theorem State.raiseFlags_d (f : Flags) : (s.raiseFlags f).d = s.d := rfl
@[simp] theorem State.raiseFlags_k (f : Flags) : (s.raiseFlags f).k = s.k := rfl
@[simp] theorem State.raiseFlags_pc (f : Flags) : (s.raiseFlags f).pc = s.pc := rfl
@[simp] theorem State.raiseFlags_fflags (f : Flags) : (s.raiseFlags f).fflags = s.fflags ||| f := rfl
@[simp] theorem State.raiseFlags_status (f : Flags) : (s.raiseFlags f).status = s.status := rfl
@[simp] theorem State.raiseFlags_cause (f : Flags) : (s.raiseFlags f).cause = s.cause := rfl
@[simp] theorem State.raiseFlags_epc (f : Flags) : (s.raiseFlags f).epc = s.epc := rfl
@[simp] theorem State.raiseFlags_finst (f : Flags) : (s.raiseFlags f).finst = s.finst := rfl
@[simp] theorem State.raiseFlags_imem (f : Flags) : (s.raiseFlags f).imem = s.imem := rfl
@[simp] theorem State.raiseFlags_dmem (f : Flags) : (s.raiseFlags f).dmem = s.dmem := rfl
@[simp] theorem State.raiseFlags_polyP (f : Flags) : (s.raiseFlags f).polyP = s.polyP := rfl
@[simp] theorem State.raiseFlags_polyM (f : Flags) : (s.raiseFlags f).polyM = s.polyM := rfl
@[simp] theorem State.raiseFlags_host (f : Flags) : (s.raiseFlags f).host = s.host := rfl
@[simp] theorem State.raiseFlags_hostReply (f : Flags) : (s.raiseFlags f).hostReply = s.hostReply := rfl

/-! ### advance -/

@[simp] theorem State.advance_w : (s.advance).w = s.w := rfl
@[simp] theorem State.advance_d : (s.advance).d = s.d := rfl
@[simp] theorem State.advance_k : (s.advance).k = s.k := rfl
@[simp] theorem State.advance_pc : (s.advance).pc = s.pc + 1 := rfl
@[simp] theorem State.advance_fflags : (s.advance).fflags = s.fflags := rfl
@[simp] theorem State.advance_status : (s.advance).status = s.status := rfl
@[simp] theorem State.advance_cause : (s.advance).cause = s.cause := rfl
@[simp] theorem State.advance_epc : (s.advance).epc = s.epc := rfl
@[simp] theorem State.advance_finst : (s.advance).finst = s.finst := rfl
@[simp] theorem State.advance_imem : (s.advance).imem = s.imem := rfl
@[simp] theorem State.advance_dmem : (s.advance).dmem = s.dmem := rfl
@[simp] theorem State.advance_polyP : (s.advance).polyP = s.polyP := rfl
@[simp] theorem State.advance_polyM : (s.advance).polyM = s.polyM := rfl
@[simp] theorem State.advance_host : (s.advance).host = s.host := rfl
@[simp] theorem State.advance_hostReply : (s.advance).hostReply = s.hostReply := rfl

/-! ### jumpTo -/

@[simp] theorem State.jumpTo_w (t : BitVec 8) : (s.jumpTo t).w = s.w := rfl
@[simp] theorem State.jumpTo_d (t : BitVec 8) : (s.jumpTo t).d = s.d := rfl
@[simp] theorem State.jumpTo_k (t : BitVec 8) : (s.jumpTo t).k = s.k := rfl
@[simp] theorem State.jumpTo_pc (t : BitVec 8) : (s.jumpTo t).pc = t.setWidth 9 := rfl
@[simp] theorem State.jumpTo_fflags (t : BitVec 8) : (s.jumpTo t).fflags = s.fflags := rfl
@[simp] theorem State.jumpTo_status (t : BitVec 8) : (s.jumpTo t).status = s.status := rfl
@[simp] theorem State.jumpTo_cause (t : BitVec 8) : (s.jumpTo t).cause = s.cause := rfl
@[simp] theorem State.jumpTo_epc (t : BitVec 8) : (s.jumpTo t).epc = s.epc := rfl
@[simp] theorem State.jumpTo_finst (t : BitVec 8) : (s.jumpTo t).finst = s.finst := rfl
@[simp] theorem State.jumpTo_imem (t : BitVec 8) : (s.jumpTo t).imem = s.imem := rfl
@[simp] theorem State.jumpTo_dmem (t : BitVec 8) : (s.jumpTo t).dmem = s.dmem := rfl
@[simp] theorem State.jumpTo_polyP (t : BitVec 8) : (s.jumpTo t).polyP = s.polyP := rfl
@[simp] theorem State.jumpTo_polyM (t : BitVec 8) : (s.jumpTo t).polyM = s.polyM := rfl
@[simp] theorem State.jumpTo_host (t : BitVec 8) : (s.jumpTo t).host = s.host := rfl
@[simp] theorem State.jumpTo_hostReply (t : BitVec 8) : (s.jumpTo t).hostReply = s.hostReply := rfl

/-! ### dmemWrite -/

@[simp] theorem State.dmemWrite_w (a : Nat) (v : Word) : (s.dmemWrite a v).w = s.w := rfl
@[simp] theorem State.dmemWrite_d (a : Nat) (v : Word) : (s.dmemWrite a v).d = s.d := rfl
@[simp] theorem State.dmemWrite_k (a : Nat) (v : Word) : (s.dmemWrite a v).k = s.k := rfl
@[simp] theorem State.dmemWrite_pc (a : Nat) (v : Word) : (s.dmemWrite a v).pc = s.pc := rfl
@[simp] theorem State.dmemWrite_fflags (a : Nat) (v : Word) : (s.dmemWrite a v).fflags = s.fflags := rfl
@[simp] theorem State.dmemWrite_status (a : Nat) (v : Word) : (s.dmemWrite a v).status = s.status := rfl
@[simp] theorem State.dmemWrite_cause (a : Nat) (v : Word) : (s.dmemWrite a v).cause = s.cause := rfl
@[simp] theorem State.dmemWrite_epc (a : Nat) (v : Word) : (s.dmemWrite a v).epc = s.epc := rfl
@[simp] theorem State.dmemWrite_finst (a : Nat) (v : Word) : (s.dmemWrite a v).finst = s.finst := rfl
@[simp] theorem State.dmemWrite_imem (a : Nat) (v : Word) : (s.dmemWrite a v).imem = s.imem := rfl
@[simp] theorem State.dmemWrite_dmem (a : Nat) (v : Word) : (s.dmemWrite a v).dmem = s.dmem.writeLE (dmemByte a) 8 v.toNat := rfl
@[simp] theorem State.dmemWrite_polyP (a : Nat) (v : Word) : (s.dmemWrite a v).polyP = s.polyP := rfl
@[simp] theorem State.dmemWrite_polyM (a : Nat) (v : Word) : (s.dmemWrite a v).polyM = s.polyM := rfl
@[simp] theorem State.dmemWrite_host (a : Nat) (v : Word) : (s.dmemWrite a v).host = s.host := rfl
@[simp] theorem State.dmemWrite_hostReply (a : Nat) (v : Word) : (s.dmemWrite a v).hostReply = s.hostReply := rfl

/-! ### imemWrite -/

@[simp] theorem State.imemWrite_w (a : Nat) (v : Half) : (s.imemWrite a v).w = s.w := rfl
@[simp] theorem State.imemWrite_d (a : Nat) (v : Half) : (s.imemWrite a v).d = s.d := rfl
@[simp] theorem State.imemWrite_k (a : Nat) (v : Half) : (s.imemWrite a v).k = s.k := rfl
@[simp] theorem State.imemWrite_pc (a : Nat) (v : Half) : (s.imemWrite a v).pc = s.pc := rfl
@[simp] theorem State.imemWrite_fflags (a : Nat) (v : Half) : (s.imemWrite a v).fflags = s.fflags := rfl
@[simp] theorem State.imemWrite_status (a : Nat) (v : Half) : (s.imemWrite a v).status = s.status := rfl
@[simp] theorem State.imemWrite_cause (a : Nat) (v : Half) : (s.imemWrite a v).cause = s.cause := rfl
@[simp] theorem State.imemWrite_epc (a : Nat) (v : Half) : (s.imemWrite a v).epc = s.epc := rfl
@[simp] theorem State.imemWrite_finst (a : Nat) (v : Half) : (s.imemWrite a v).finst = s.finst := rfl
@[simp] theorem State.imemWrite_imem (a : Nat) (v : Half) : (s.imemWrite a v).imem = s.imem.writeLE (imemByte a) 4 v.toNat := rfl
@[simp] theorem State.imemWrite_dmem (a : Nat) (v : Half) : (s.imemWrite a v).dmem = s.dmem := rfl
@[simp] theorem State.imemWrite_polyP (a : Nat) (v : Half) : (s.imemWrite a v).polyP = s.polyP := rfl
@[simp] theorem State.imemWrite_polyM (a : Nat) (v : Half) : (s.imemWrite a v).polyM = s.polyM := rfl
@[simp] theorem State.imemWrite_host (a : Nat) (v : Half) : (s.imemWrite a v).host = s.host := rfl
@[simp] theorem State.imemWrite_hostReply (a : Nat) (v : Half) : (s.imemWrite a v).hostReply = s.hostReply := rfl

/-! ### takeFault -/

@[simp] theorem State.takeFault_w (c : Cause) (x : Half) : (s.takeFault c x).w = s.w := rfl
@[simp] theorem State.takeFault_d (c : Cause) (x : Half) : (s.takeFault c x).d = s.d := rfl
@[simp] theorem State.takeFault_k (c : Cause) (x : Half) : (s.takeFault c x).k = s.k := rfl
@[simp] theorem State.takeFault_pc (c : Cause) (x : Half) : (s.takeFault c x).pc = s.pc := rfl
@[simp] theorem State.takeFault_fflags (c : Cause) (x : Half) : (s.takeFault c x).fflags = s.fflags := rfl
@[simp] theorem State.takeFault_status (c : Cause) (x : Half) : (s.takeFault c x).status = .faulted := rfl
@[simp] theorem State.takeFault_cause (c : Cause) (x : Half) : (s.takeFault c x).cause = c := rfl
@[simp] theorem State.takeFault_epc (c : Cause) (x : Half) : (s.takeFault c x).epc = s.pc := rfl
@[simp] theorem State.takeFault_finst (c : Cause) (x : Half) : (s.takeFault c x).finst = x := rfl
@[simp] theorem State.takeFault_imem (c : Cause) (x : Half) : (s.takeFault c x).imem = s.imem := rfl
@[simp] theorem State.takeFault_dmem (c : Cause) (x : Half) : (s.takeFault c x).dmem = s.dmem := rfl
@[simp] theorem State.takeFault_polyP (c : Cause) (x : Half) : (s.takeFault c x).polyP = s.polyP := rfl
@[simp] theorem State.takeFault_polyM (c : Cause) (x : Half) : (s.takeFault c x).polyM = s.polyM := rfl
@[simp] theorem State.takeFault_host (c : Cause) (x : Half) : (s.takeFault c x).host = s.host := rfl
@[simp] theorem State.takeFault_hostReply (c : Cause) (x : Half) : (s.takeFault c x).hostReply = s.hostReply := rfl

/-! ### start -/

@[simp] theorem State.start_w : (s.start).w = s.w := rfl
@[simp] theorem State.start_d : (s.start).d = s.d := rfl
@[simp] theorem State.start_k : (s.start).k = s.k := rfl
@[simp] theorem State.start_pc : (s.start).pc = s.pc := rfl
@[simp] theorem State.start_fflags : (s.start).fflags = s.fflags := rfl
@[simp] theorem State.start_status : (s.start).status = .running := rfl
@[simp] theorem State.start_cause : (s.start).cause = .none := rfl
@[simp] theorem State.start_epc : (s.start).epc = 0 := rfl
@[simp] theorem State.start_finst : (s.start).finst = 0 := rfl
@[simp] theorem State.start_imem : (s.start).imem = s.imem := rfl
@[simp] theorem State.start_dmem : (s.start).dmem = s.dmem := rfl
@[simp] theorem State.start_polyP : (s.start).polyP = s.polyP := rfl
@[simp] theorem State.start_polyM : (s.start).polyM = s.polyM := rfl
@[simp] theorem State.start_host : (s.start).host = s.host := rfl
@[simp] theorem State.start_hostReply : (s.start).hostReply = s.hostReply := rfl

/-! ### softReset -/

@[simp] theorem State.softReset_w : (s.softReset).w = s.w := rfl
@[simp] theorem State.softReset_d : (s.softReset).d = s.d := rfl
@[simp] theorem State.softReset_k : (s.softReset).k = 0 := rfl
@[simp] theorem State.softReset_pc : (s.softReset).pc = 0 := rfl
@[simp] theorem State.softReset_fflags : (s.softReset).fflags = 0 := rfl
@[simp] theorem State.softReset_status : (s.softReset).status = .idle := rfl
@[simp] theorem State.softReset_cause : (s.softReset).cause = .none := rfl
@[simp] theorem State.softReset_epc : (s.softReset).epc = 0 := rfl
@[simp] theorem State.softReset_finst : (s.softReset).finst = 0 := rfl
@[simp] theorem State.softReset_imem : (s.softReset).imem = s.imem := rfl
@[simp] theorem State.softReset_dmem : (s.softReset).dmem = s.dmem := rfl
@[simp] theorem State.softReset_polyP : (s.softReset).polyP = s.polyP := rfl
@[simp] theorem State.softReset_polyM : (s.softReset).polyM = s.polyM := rfl
@[simp] theorem State.softReset_host : (s.softReset).host = s.host := rfl
@[simp] theorem State.softReset_hostReply : (s.softReset).hostReply = s.hostReply := rfl

/-! ### powerCycle -/

@[simp] theorem State.powerCycle_w : (s.powerCycle).w = Vector.replicate 16 0 := rfl
@[simp] theorem State.powerCycle_d : (s.powerCycle).d = Vector.replicate 8 ⟨0, 0⟩ := rfl
@[simp] theorem State.powerCycle_k : (s.powerCycle).k = 0 := rfl
@[simp] theorem State.powerCycle_pc : (s.powerCycle).pc = 0 := rfl
@[simp] theorem State.powerCycle_fflags : (s.powerCycle).fflags = 0 := rfl
@[simp] theorem State.powerCycle_status : (s.powerCycle).status = .idle := rfl
@[simp] theorem State.powerCycle_cause : (s.powerCycle).cause = .none := rfl
@[simp] theorem State.powerCycle_epc : (s.powerCycle).epc = 0 := rfl
@[simp] theorem State.powerCycle_finst : (s.powerCycle).finst = 0 := rfl
@[simp] theorem State.powerCycle_imem : (s.powerCycle).imem = [] := rfl
@[simp] theorem State.powerCycle_dmem : (s.powerCycle).dmem = [] := rfl
@[simp] theorem State.powerCycle_polyP : (s.powerCycle).polyP = s.polyP := rfl
@[simp] theorem State.powerCycle_polyM : (s.powerCycle).polyM = s.polyM := rfl
@[simp] theorem State.powerCycle_host : (s.powerCycle).host = s.host := rfl
@[simp] theorem State.powerCycle_hostReply : (s.powerCycle).hostReply = 0 := rfl

/-! ### Reads after updates -/

@[simp] theorem State.readD_writeW (r : WReg) (v : Word) (i : DReg) : (s.writeW r v).readD i = s.readD i := rfl
@[simp] theorem State.dmemRead_writeW (r : WReg) (v : Word) (n : Nat) : (s.writeW r v).dmemRead n = s.dmemRead n := rfl
@[simp] theorem State.imemRead_writeW (r : WReg) (v : Word) (n : Nat) : (s.writeW r v).imemRead n = s.imemRead n := rfl
@[simp] theorem State.readW_writeD (r : DReg) (v : DD) (i : WReg) : (s.writeD r v).readW i = s.readW i := rfl
@[simp] theorem State.dmemRead_writeD (r : DReg) (v : DD) (n : Nat) : (s.writeD r v).dmemRead n = s.dmemRead n := rfl
@[simp] theorem State.imemRead_writeD (r : DReg) (v : DD) (n : Nat) : (s.writeD r v).imemRead n = s.imemRead n := rfl
@[simp] theorem State.readW_writeK (v : Half) (i : WReg) : (s.writeK v).readW i = s.readW i := rfl
@[simp] theorem State.readD_writeK (v : Half) (i : DReg) : (s.writeK v).readD i = s.readD i := rfl
@[simp] theorem State.dmemRead_writeK (v : Half) (n : Nat) : (s.writeK v).dmemRead n = s.dmemRead n := rfl
@[simp] theorem State.imemRead_writeK (v : Half) (n : Nat) : (s.writeK v).imemRead n = s.imemRead n := rfl
@[simp] theorem State.readW_raiseFlags (f : Flags) (i : WReg) : (s.raiseFlags f).readW i = s.readW i := rfl
@[simp] theorem State.readD_raiseFlags (f : Flags) (i : DReg) : (s.raiseFlags f).readD i = s.readD i := rfl
@[simp] theorem State.dmemRead_raiseFlags (f : Flags) (n : Nat) : (s.raiseFlags f).dmemRead n = s.dmemRead n := rfl
@[simp] theorem State.imemRead_raiseFlags (f : Flags) (n : Nat) : (s.raiseFlags f).imemRead n = s.imemRead n := rfl
@[simp] theorem State.readW_advance (i : WReg) : (s.advance).readW i = s.readW i := rfl
@[simp] theorem State.readD_advance (i : DReg) : (s.advance).readD i = s.readD i := rfl
@[simp] theorem State.dmemRead_advance (n : Nat) : (s.advance).dmemRead n = s.dmemRead n := rfl
@[simp] theorem State.imemRead_advance (n : Nat) : (s.advance).imemRead n = s.imemRead n := rfl
@[simp] theorem State.readW_jumpTo (t : BitVec 8) (i : WReg) : (s.jumpTo t).readW i = s.readW i := rfl
@[simp] theorem State.readD_jumpTo (t : BitVec 8) (i : DReg) : (s.jumpTo t).readD i = s.readD i := rfl
@[simp] theorem State.dmemRead_jumpTo (t : BitVec 8) (n : Nat) : (s.jumpTo t).dmemRead n = s.dmemRead n := rfl
@[simp] theorem State.imemRead_jumpTo (t : BitVec 8) (n : Nat) : (s.jumpTo t).imemRead n = s.imemRead n := rfl
@[simp] theorem State.readW_dmemWrite (a : Nat) (v : Word) (i : WReg) : (s.dmemWrite a v).readW i = s.readW i := rfl
@[simp] theorem State.readD_dmemWrite (a : Nat) (v : Word) (i : DReg) : (s.dmemWrite a v).readD i = s.readD i := rfl
@[simp] theorem State.imemRead_dmemWrite (a : Nat) (v : Word) (n : Nat) : (s.dmemWrite a v).imemRead n = s.imemRead n := rfl
@[simp] theorem State.readW_imemWrite (a : Nat) (v : Half) (i : WReg) : (s.imemWrite a v).readW i = s.readW i := rfl
@[simp] theorem State.readD_imemWrite (a : Nat) (v : Half) (i : DReg) : (s.imemWrite a v).readD i = s.readD i := rfl
@[simp] theorem State.dmemRead_imemWrite (a : Nat) (v : Half) (n : Nat) : (s.imemWrite a v).dmemRead n = s.dmemRead n := rfl
@[simp] theorem State.readW_takeFault (c : Cause) (x : Half) (i : WReg) : (s.takeFault c x).readW i = s.readW i := rfl
@[simp] theorem State.readD_takeFault (c : Cause) (x : Half) (i : DReg) : (s.takeFault c x).readD i = s.readD i := rfl
@[simp] theorem State.dmemRead_takeFault (c : Cause) (x : Half) (n : Nat) : (s.takeFault c x).dmemRead n = s.dmemRead n := rfl
@[simp] theorem State.imemRead_takeFault (c : Cause) (x : Half) (n : Nat) : (s.takeFault c x).imemRead n = s.imemRead n := rfl
@[simp] theorem State.readW_start (i : WReg) : (s.start).readW i = s.readW i := rfl
@[simp] theorem State.readD_start (i : DReg) : (s.start).readD i = s.readD i := rfl
@[simp] theorem State.dmemRead_start (n : Nat) : (s.start).dmemRead n = s.dmemRead n := rfl
@[simp] theorem State.imemRead_start (n : Nat) : (s.start).imemRead n = s.imemRead n := rfl
@[simp] theorem State.readW_softReset (i : WReg) : (s.softReset).readW i = s.readW i := rfl
@[simp] theorem State.readD_softReset (i : DReg) : (s.softReset).readD i = s.readD i := rfl
@[simp] theorem State.dmemRead_softReset (n : Nat) : (s.softReset).dmemRead n = s.dmemRead n := rfl
@[simp] theorem State.imemRead_softReset (n : Nat) : (s.softReset).imemRead n = s.imemRead n := rfl

@[simp] theorem State.readW_writeW_self (r : WReg) (v : Word) : (s.writeW r v).readW r = v := by
  simp [State.readW]

theorem State.readW_writeW_of_ne (r i : WReg) (v : Word) (h : i ≠ r) :
    (s.writeW r v).readW i = s.readW i := by
  have hv : (r : Nat) ≠ i := fun e => h (Fin.ext e.symm)
  simp [State.readW, hv]

/-- Any word register after a write of one. -/
theorem State.readW_writeW (r i : WReg) (v : Word) :
    (s.writeW r v).readW i = if i = r then v else s.readW i := by
  split
  · next h => subst h; exact s.readW_writeW_self i v
  · next h => exact s.readW_writeW_of_ne r i v h

@[simp] theorem State.readD_writeD_self (r : DReg) (v : DD) : (s.writeD r v).readD r = v := by
  simp [State.readD]

theorem State.readD_writeD_of_ne (r i : DReg) (v : DD) (h : i ≠ r) :
    (s.writeD r v).readD i = s.readD i := by
  have hv : (r : Nat) ≠ i := fun e => h (Fin.ext e.symm)
  simp [State.readD, hv]

/-- Any DD register after a write of one. -/
theorem State.readD_writeD (r i : DReg) (v : DD) :
    (s.writeD r v).readD i = if i = r then v else s.readD i := by
  split
  · next h => subst h; exact s.readD_writeD_self i v
  · next h => exact s.readD_writeD_of_ne r i v h

end

end Sys2Proof.Machine
end

