-- ==== Sys2Proof/Laws/Ops.lean ====
section
/-! SUPPORT. What each shared operation can do, said once: the accumulation of flags, the end of an instruction,
fault entry, fetch, the host port and the step. -/

namespace Sys2Proof.Machine

/-! ### The accumulator of R15 -/

section
variable {α β : Type}

@[simp] theorem Raised.quiet_val (v : α) : (Raised.quiet v).val = v := rfl
@[simp] theorem Raised.quiet_flags (v : α) : (Raised.quiet v).flags = 0 := rfl
@[simp] theorem Raised.also_val (f : Flags) (x : Raised α) : (x.also f).val = x.val := rfl
@[simp] theorem Raised.also_flags (f : Flags) (x : Raised α) : (x.also f).flags = f ||| x.flags := rfl

/-- The second computation sees the first one's result. -/
@[simp] theorem Raised.andThen_val (x : Raised α) (f : α → Raised β) : (x.andThen f).val = (f x.val).val := rfl

/-- The flags of both computations are OR'd. -/
@[simp] theorem Raised.andThen_flags (x : Raised α) (f : α → Raised β) :
    (x.andThen f).flags = x.flags ||| (f x.val).flags := rfl

/-- Two computations with one value and one set of flags are one. -/
theorem Raised.eq_of_val_flags {x y : Raised α} (hv : x.val = y.val) (hf : x.flags = y.flags) : x = y := by
  cases x; cases y; cases hv; cases hf; rfl

end

@[simp] theorem flagIf_true (f : Flags) : flagIf true f = f := rfl
@[simp] theorem flagIf_false (f : Flags) : flagIf false f = 0 := rfl

/-! ### The end of an instruction -/

/-- A word-register completion answers one next state. -/
theorem completeW_eq_next {s t : State} {r : WReg} {x : Raised Word} :
    completeW s r x = .next t ↔ t = ((s.writeW r x.val).raiseFlags x.flags).advance := by
  simp [completeW, eq_comm]

/-- A DD-register completion answers one next state. -/
theorem completeD_eq_next {s t : State} {r : DReg} {x : Raised DD} :
    completeD s r x = .next t ↔ t = ((s.writeD r x.val).raiseFlags x.flags).advance := by
  simp [completeD, eq_comm]

/-- The fault of an instruction is fault entry with its own word (R402). -/
theorem faultOf_eq_next {s t : State} {c : Cause} {i : Instr} :
    faultOf s c i = .next t ↔ t = s.takeFault c (encode i) := by
  simp [faultOf, eq_comm]

/-- A branch goes to its target or to the next word, with the flags of its comparison (R311, R312). -/
theorem branchOn_eq_next {s t : State} {c : Raised Bool} {x : BitVec 8} :
    branchOn c x s = .next t ↔
      (c.val = true ∧ t = (s.raiseFlags c.flags).jumpTo x) ∨
        (c.val = false ∧ t = (s.raiseFlags c.flags).advance) := by
  cases h : c.val <;> simp [branchOn, h, eq_comm]

/-! ### Fetch -/

/-- What a successful fetch says of the state: PC in IMEM, a written word there, and its decoding (R401, R520). -/
theorem fetchDecode_eq_ok {s : State} {i : Instr} :
    fetchDecode s = .ok i ↔
      s.pc.toNat < Config.imemWords ∧ ∃ w, s.imemRead s.pc.toNat = some w ∧ decode w = .ok i := by
  unfold fetchDecode
  split
  · next h => simp [Nat.not_lt.mpr h]
  · next h =>
    have hp : s.pc.toNat < Config.imemWords := Nat.lt_of_not_le h
    split
    · next hr => simp [hr]
    · next w hr =>
      split
      · next e hd => simp [hr, hd]
      · next j hd => simp [hr, hd, hp]

/-- Every way a fetch can end without an instruction (R401, R406, R132). -/
theorem fetchDecode_eq_error {s : State} {o : Out} (h : fetchDecode s = .error o) :
    (Config.imemWords ≤ s.pc.toNat ∧ o = .next (s.takeFault .fetch 0)) ∨
    (s.pc.toNat < Config.imemWords ∧ s.imemRead s.pc.toNat = none ∧ o = .fault (.unwrittenImem s.pc.toNat)) ∨
    (s.pc.toNat < Config.imemWords ∧ ∃ w e, s.imemRead s.pc.toNat = some w ∧ decode w = .error e ∧
      o = .next (s.takeFault .illegal w)) := by
  unfold fetchDecode at h
  split at h
  · next hp => exact .inl ⟨hp, by simpa using h.symm⟩
  · next hp =>
    have hp : s.pc.toNat < Config.imemWords := Nat.lt_of_not_le hp
    split at h
    · next hr => exact .inr (.inl ⟨hp, hr, by simpa using h.symm⟩)
    · next w hr =>
      split at h
      · next e hd => exact .inr (.inr ⟨hp, w, e, hr, hd, by simpa using h.symm⟩)
      · cases h

/-! ### The host port -/

/-- Every way a host access can answer a next state: a read leaves its reply and nothing else (R89), a write
stores at what its offset names; both well-formed, and while the core runs only STATUS is read and CTRL
written (R87). -/
theorem hostAccess_eq_next {a : HostAccess} {s t : State} (h : hostAccess a s = .next t) :
    (∃ off v, a = .read off 32 ∧ off.toNat % 4 = 0 ∧
      (s.status = .running → hostLocAt off.toNat = .status) ∧
      s.hostValue (hostLocAt off.toNat) = .ok v ∧ t = { s with hostReply := v }) ∨
    (∃ off v, a = .write off 32 v ∧ off.toNat % 4 = 0 ∧
      (s.status = .running → hostLocAt off.toNat = .ctrl) ∧ t = s.hostStore v (hostLocAt off.toNat)) := by
  cases a with
  | read off bits =>
    simp only [hostAccess] at h
    split at h
    · cases h
    · next hw =>
      split at h
      · cases h
      · next hr =>
        split at h
        · next v hv =>
          simp [hostWellFormed] at hw
          obtain ⟨rfl, hm⟩ := hw
          refine .inl ⟨off, v, rfl, hm, fun hs => ?_, hv, by simpa using h.symm⟩
          simpa [hs] using hr
        · cases h
  | write off bits v =>
    simp only [hostAccess] at h
    split at h
    · cases h
    · next hw =>
      split at h
      · cases h
      · next hr =>
        simp [hostWellFormed] at hw
        obtain ⟨rfl, hm⟩ := hw
        refine .inr ⟨off, v, rfl, hm, fun hs => ?_, by simpa using h.symm⟩
        simpa [hs] using hr

/-- An offset names CTRL only at 0 (R86). -/
theorem hostLocAt_eq_ctrl (off : BitVec 12) : hostLocAt off.toNat = .ctrl ↔ off = 0 := by
  revert off; decide +kernel

/-- An offset names STATUS only at 4 (R86). -/
theorem hostLocAt_eq_status (off : BitVec 12) : hostLocAt off.toNat = .status ↔ off = 4 := by
  revert off; decide +kernel

/-- An offset names PC only at 0x14 (R86). -/
theorem hostLocAt_eq_pc (off : BitVec 12) : hostLocAt off.toNat = .pc ↔ off = 0x014 := by
  revert off; decide +kernel

/-! ### The step -/

/-- Every way the core can move (R520, R424): it stands still, runs the instruction it fetched, or takes the fault
of its fetch. -/
theorem coreStep_eq_next {s t : State} (h : coreStep s = .next t) :
    (s.status ≠ .running ∧ t = s) ∨
    (s.status = .running ∧ s.pc.toNat < Config.imemWords ∧
      ∃ w i, s.imemRead s.pc.toNat = some w ∧ decode w = .ok i ∧ exec i s = .next t) ∨
    (s.status = .running ∧ Config.imemWords ≤ s.pc.toNat ∧ t = s.takeFault .fetch 0) ∨
    (s.status = .running ∧ s.pc.toNat < Config.imemWords ∧
      ∃ w e, s.imemRead s.pc.toNat = some w ∧ decode w = .error e ∧ t = s.takeFault .illegal w) := by
  unfold coreStep at h
  split at h
  · next hs =>
    split at h
    · next i hf =>
      obtain ⟨hp, w, hr, hd⟩ := fetchDecode_eq_ok.mp hf
      exact .inr (.inl ⟨hs, hp, w, i, hr, hd, h⟩)
    · next o hf =>
      subst h
      rcases fetchDecode_eq_error hf with ⟨hp, ho⟩ | ⟨-, -, ho⟩ | ⟨hp, w, e, hr, hd, ho⟩
      · exact .inr (.inr (.inl ⟨hs, hp, by simpa using ho⟩))
      · cases ho
      · exact .inr (.inr (.inr ⟨hs, hp, w, e, hr, hd, by simpa using ho⟩))
  · next hs => exact .inl ⟨hs, by simpa using h.symm⟩

/-- Every way the machine can step: the core's move, or one event of the outside world (log 6). -/
theorem step_eq_next {s t : State} (h : step s = .next t) :
    (s.host = [] ∧ coreStep s = .next t) ∨
    (∃ es, s.host = .idle :: es ∧ coreStep { s with host := es } = .next t) ∨
    (∃ a es, s.host = .access a :: es ∧ hostAccess a { s with host := es } = .next t) ∨
    (∃ es, s.host = .powerOn :: es ∧ t = State.powerCycle { s with host := es }) := by
  unfold step at h
  split at h
  · next hs => exact .inl ⟨hs, h⟩
  · next es hs => exact .inr (.inl ⟨es, hs, h⟩)
  · next a es hs => exact .inr (.inr (.inl ⟨a, es, hs, h⟩))
  · next es hs => exact .inr (.inr (.inr ⟨es, hs, by simpa using h.symm⟩))

end Sys2Proof.Machine
end

