-- ==== Sys2Proof/Laws/Exec.lean ====
section
/-! SUPPORT. Every way an instruction can complete or fault, said once for all 42 of them. -/

namespace Sys2Proof.Machine

@[simp] theorem State.raiseFlags_zero (s : State) : s.raiseFlags 0#5 = s := by
  simp [State.raiseFlags]

/-- The updates of registers and DMEM an instruction can make before its flags are raised and PC advances. -/
inductive Update (s : State) : State → Prop where
  | none : Update s s
  | w (r : WReg) (v : Word) : Update s (s.writeW r v)
  | ww (r q : WReg) (v x : Word) : Update s ((s.writeW r v).writeW q x)
  | d (r : DReg) (v : DD) : Update s (s.writeD r v)
  | k (x : Half) : Update s (s.writeK x)
  | kd (x : Half) (r : DReg) (v : DD) : Update s ((s.writeK x).writeD r v)
  | m (a : Nat) (v : Word) (h : a < Config.dmemWords) : Update s (s.dmemWrite a v)
  | mm (a : Nat) (v x : Word) (h : a + 1 < Config.dmemWords) :
    Update s ((s.dmemWrite a v).dmemWrite (a + 1) x)

/-- Every next state of an instruction: fault entry with its own word, HALT's, FCLR's, a jump, or an update with
flags raised and PC advanced. -/
inductive Completes (i : Instr) (s : State) : State → Prop where
  | fault (c : Cause) (h : c ≠ .none) : Completes i s (s.takeFault c (encode i))
  | halted (h : i = .halt) : Completes i s { s with status := .halted }
  | cleared (h : i = .fclr) : Completes i s ({ s with fflags := 0 } : State).advance
  | jumped (f : Flags) (x : BitVec 8) : Completes i s ((s.raiseFlags f).jumpTo x)
  | advanced (u : State) (f : Flags) (h : Update s u) : Completes i s (u.raiseFlags f).advance

/-- An update with no flag raised. -/
theorem Completes.plain {i : Instr} {s u : State} (h : Update s u) : Completes i s u.advance := by
  simpa using Completes.advanced (i := i) u 0 h

theorem Completes.ofW {i : Instr} {s t : State} {r : WReg} {x : Raised Word} (h : completeW s r x = .next t) :
    Completes i s t := by
  rw [completeW_eq_next.mp h]; exact .advanced _ _ (.w r _)

theorem Completes.ofD {i : Instr} {s t : State} {r : DReg} {x : Raised DD} (h : completeD s r x = .next t) :
    Completes i s t := by
  rw [completeD_eq_next.mp h]; exact .advanced _ _ (.d r _)

theorem Completes.ofFault {i : Instr} {s t : State} {c : Cause} (hc : c ≠ .none)
    (h : faultOf s c i = .next t) : Completes i s t := by
  rw [faultOf_eq_next.mp h]; exact .fault c hc

theorem Completes.ofBranch {i : Instr} {s t : State} {c : Raised Bool} {x : BitVec 8}
    (h : branchOn c x s = .next t) : Completes i s t := by
  rcases branchOn_eq_next.mp h with ⟨-, rfl⟩ | ⟨-, rfl⟩
  · exact .jumped _ x
  · exact .advanced _ _ .none

/-- An even byte address leaves room for the word after it. -/
theorem even_address_succ_lt (addr : BitVec 8) (h : isOdd addr = false) :
    dmemAddress addr + 1 < Config.dmemWords := by
  revert addr; decide

theorem dmemAddress_lt (addr : BitVec 8) : dmemAddress addr < Config.dmemWords := addr.isLt

/-- What `exec` can answer with a next state, for every instruction. -/
theorem exec_completes {i : Instr} {s t : State} (h : exec i s = .next t) : Completes i s t := by
  cases i <;> simp only [exec] at h
  case nop => obtain rfl : _ = t := by simpa [execNop] using h
              exact .plain .none
  case halt => obtain rfl : _ = t := by simpa [execHalt] using h
               exact .halted rfl
  case fclr => obtain rfl : _ = t := by simpa [execFclr] using h
               exact .cleared rfl
  case frd d => obtain rfl : _ = t := by simpa [execFrd] using h
                exact .plain (.w d _)
  case krd d => obtain rfl : _ = t := by simpa [execKrd] using h
                exact .plain (.w d _)
  case kwr r => obtain rfl : _ = t := by simpa [execKwr] using h
                exact .plain (.k _)
  case ldw d a =>
    simp only [execLdw] at h
    split at h
    · obtain rfl : _ = t := by simpa using h
      exact .plain (.w d _)
    · cases h
  case stw r a => obtain rfl : _ = t := by simpa [execStw] using h
                  exact .plain (.m _ _ (dmemAddress_lt a))
  case ldd d a =>
    simp only [execLdd] at h
    split at h
    · exact .ofFault (by decide) h
    · split at h
      · obtain rfl : _ = t := by simpa using h
        exact .plain (.d d _)
      · cases h
      · cases h
  case std r a =>
    simp only [execStd] at h
    split at h
    · exact .ofFault (by decide) h
    · next ho =>
      obtain rfl : _ = t := by simpa using h
      exact .plain (.mm _ _ _ (even_address_succ_lt a (by simpa using ho)))
  case movw d r => obtain rfl : _ = t := by simpa [execMovw] using h
                   exact .plain (.w d _)
  case dmov d r => obtain rfl : _ = t := by simpa [execDmov] using h
                   exact .plain (.d d _)
  case ddec wh wl a =>
    simp only [execDdec] at h
    split at h
    · exact .ofFault (by decide) h
    · obtain rfl : _ = t := by simpa using h
      exact .plain (.ww wh wl _ _)
  case rred d a =>
    simp only [execRred] at h
    split at h
    · obtain rfl : _ = t := by simpa using h
      exact .advanced _ _ (.kd _ d _)
    · exact .ofFault (by decide) h
  case rsclP d a =>
    simp only [execRsclP] at h
    split at h
    · exact .ofW h
    · exact .ofFault (by decide) h
  case rsclM d a =>
    simp only [execRsclM] at h
    split at h
    · exact .ofW h
    · exact .ofFault (by decide) h
  case jmp x => obtain rfl : _ = t := by simpa [execJmp] using h
                simpa using Completes.jumped (i := .jmp x) (s := s) 0 x
  all_goals first | exact .ofD h | exact .ofW h | exact .ofBranch h

end Sys2Proof.Machine
end

