-- ==== Sys2Proof/Laws/PerInstr.lean ====
section
/-! SUPPORT. The encoder against the opcode table, one lemma per constructor: the word of an instruction
matches its row (30_encoding.md R126). -/

namespace Sys2Proof.Laws

/-- A word and a mask, field by field. -/
theorem wordOf_and (op mo : BitVec 8) (a b c ma mb mc mz : BitVec 4) (i mi : BitVec 8) :
    wordOf op a b c i &&& (mo ++ ma ++ mb ++ mc ++ mz ++ mi) =
      (op &&& mo) ++ (a &&& ma) ++ (b &&& mb) ++ (c &&& mc) ++ (0#4 &&& mz) ++ (i &&& mi) := by
  show ((op ++ a ++ b ++ c ++ 0#4 ++ i : BitVec (8 + 4 + 4 + 4 + 4 + 8)) &&&
    (mo ++ ma ++ mb ++ mc ++ mz ++ mi)) = _
  simp only [BitVec.and_append]

/-- Bit 3 of the field that names a DD register is 0. -/
theorem dCode_and_eight (r : DReg) : dCode r &&& 8#4 = 0#4 := by
  revert r; decide

namespace EncodeMatchesRow

/-- The word of the instruction matches a row of the table with the instruction's mnemonic. -/
def Statement (i : Instr) : Prop :=
  ∃ r ∈ opcodeTable, r.mnemonic = i.mnemonic ∧ encode i &&& r.mask = r.pattern

theorem nop : Statement (.nop) := by
  refine ⟨⟨"NOP", 0x01000000#32, 0xFFFFFFFF#32⟩, by simp [opcodeTable], rfl, ?_⟩
  refine (wordOf_and _ 255 _ _ _ 15 15 15 15 _ 255).trans ?_
  simp

theorem halt : Statement (.halt) := by
  refine ⟨⟨"HALT", 0x02000000#32, 0xFFFFFFFF#32⟩, by simp [opcodeTable], rfl, ?_⟩
  refine (wordOf_and _ 255 _ _ _ 15 15 15 15 _ 255).trans ?_
  simp

theorem fclr : Statement (.fclr) := by
  refine ⟨⟨"FCLR", 0x03000000#32, 0xFFFFFFFF#32⟩, by simp [opcodeTable], rfl, ?_⟩
  refine (wordOf_and _ 255 _ _ _ 15 15 15 15 _ 255).trans ?_
  simp

theorem frd (wd : WReg) : Statement (.frd wd) := by
  refine ⟨⟨"FRD", 0x04000000#32, 0xFF0FFFFF#32⟩, by simp [opcodeTable], rfl, ?_⟩
  refine (wordOf_and _ 255 _ _ _ 0 15 15 15 _ 255).trans ?_
  simp

theorem krd (wd : WReg) : Statement (.krd wd) := by
  refine ⟨⟨"KRD", 0x05000000#32, 0xFF0FFFFF#32⟩, by simp [opcodeTable], rfl, ?_⟩
  refine (wordOf_and _ 255 _ _ _ 0 15 15 15 _ 255).trans ?_
  simp

theorem kwr (ws : WReg) : Statement (.kwr ws) := by
  refine ⟨⟨"KWR", 0x06000000#32, 0xFF0FFFFF#32⟩, by simp [opcodeTable], rfl, ?_⟩
  refine (wordOf_and _ 255 _ _ _ 0 15 15 15 _ 255).trans ?_
  simp

theorem ldw (wd : WReg) (addr : BitVec 8) : Statement (.ldw wd addr) := by
  refine ⟨⟨"LDW", 0x10000000#32, 0xFF0FFF00#32⟩, by simp [opcodeTable], rfl, ?_⟩
  refine (wordOf_and _ 255 _ _ _ 0 15 15 15 _ 0).trans ?_
  simp

theorem stw (ws : WReg) (addr : BitVec 8) : Statement (.stw ws addr) := by
  refine ⟨⟨"STW", 0x11000000#32, 0xFF0FFF00#32⟩, by simp [opcodeTable], rfl, ?_⟩
  refine (wordOf_and _ 255 _ _ _ 0 15 15 15 _ 0).trans ?_
  simp

theorem ldd (dd : DReg) (addr : BitVec 8) : Statement (.ldd dd addr) := by
  refine ⟨⟨"LDD", 0x12000000#32, 0xFF8FFF00#32⟩, by simp [opcodeTable], rfl, ?_⟩
  refine (wordOf_and _ 255 _ _ _ 8 15 15 15 _ 0).trans ?_
  simp [dCode_and_eight]

theorem std (ds : DReg) (addr : BitVec 8) : Statement (.std ds addr) := by
  refine ⟨⟨"STD", 0x13000000#32, 0xFF8FFF00#32⟩, by simp [opcodeTable], rfl, ?_⟩
  refine (wordOf_and _ 255 _ _ _ 8 15 15 15 _ 0).trans ?_
  simp [dCode_and_eight]

theorem movw (wd : WReg) (ws : WReg) : Statement (.movw wd ws) := by
  refine ⟨⟨"MOVW", 0x14000000#32, 0xFF00FFFF#32⟩, by simp [opcodeTable], rfl, ?_⟩
  refine (wordOf_and _ 255 _ _ _ 0 0 15 15 _ 255).trans ?_
  simp

theorem dmov (dd : DReg) (ds : DReg) : Statement (.dmov dd ds) := by
  refine ⟨⟨"DMOV", 0x15000000#32, 0xFF88FFFF#32⟩, by simp [opcodeTable], rfl, ?_⟩
  refine (wordOf_and _ 255 _ _ _ 8 8 15 15 _ 255).trans ?_
  simp [dCode_and_eight]

theorem dneg (dd : DReg) (da : DReg) : Statement (.dneg dd da) := by
  refine ⟨⟨"DNEG", 0x20000000#32, 0xFF88FFFF#32⟩, by simp [opcodeTable], rfl, ?_⟩
  refine (wordOf_and _ 255 _ _ _ 8 8 15 15 _ 255).trans ?_
  simp [dCode_and_eight]

theorem dmk (dd : DReg) (wh : WReg) (wl : WReg) : Statement (.dmk dd wh wl) := by
  refine ⟨⟨"DMK", 0x21000000#32, 0xFF800FFF#32⟩, by simp [opcodeTable], rfl, ?_⟩
  refine (wordOf_and _ 255 _ _ _ 8 0 0 15 _ 255).trans ?_
  simp [dCode_and_eight]

theorem ddec (wh : WReg) (wl : WReg) (da : DReg) : Statement (.ddec wh wl da) := by
  refine ⟨⟨"DDEC", 0x22000000#32, 0xFF008FFF#32⟩, by simp [opcodeTable], rfl, ?_⟩
  refine (wordOf_and _ 255 _ _ _ 0 0 8 15 _ 255).trans ?_
  simp [dCode_and_eight]

theorem split (dd : DReg) (wa : WReg) : Statement (.split dd wa) := by
  refine ⟨⟨"SPLIT", 0x23000000#32, 0xFF80FFFF#32⟩, by simp [opcodeTable], rfl, ?_⟩
  refine (wordOf_and _ 255 _ _ _ 8 0 15 15 _ 255).trans ?_
  simp [dCode_and_eight]

theorem tsum (dd : DReg) (wa : WReg) (wb : WReg) : Statement (.tsum dd wa wb) := by
  refine ⟨⟨"TSUM", 0x24000000#32, 0xFF800FFF#32⟩, by simp [opcodeTable], rfl, ?_⟩
  refine (wordOf_and _ 255 _ _ _ 8 0 0 15 _ 255).trans ?_
  simp [dCode_and_eight]

theorem ftsum (dd : DReg) (wa : WReg) (wb : WReg) : Statement (.ftsum dd wa wb) := by
  refine ⟨⟨"FTSUM", 0x25000000#32, 0xFF800FFF#32⟩, by simp [opcodeTable], rfl, ?_⟩
  refine (wordOf_and _ 255 _ _ _ 8 0 0 15 _ 255).trans ?_
  simp [dCode_and_eight]

theorem daddw (dd : DReg) (da : DReg) (wb : WReg) : Statement (.daddw dd da wb) := by
  refine ⟨⟨"DADDW", 0x26000000#32, 0xFF880FFF#32⟩, by simp [opcodeTable], rfl, ?_⟩
  refine (wordOf_and _ 255 _ _ _ 8 8 0 15 _ 255).trans ?_
  simp [dCode_and_eight]

theorem dadd (dd : DReg) (da : DReg) (db : DReg) : Statement (.dadd dd da db) := by
  refine ⟨⟨"DADD", 0x27000000#32, 0xFF888FFF#32⟩, by simp [opcodeTable], rfl, ?_⟩
  refine (wordOf_and _ 255 _ _ _ 8 8 8 15 _ 255).trans ?_
  simp [dCode_and_eight]

theorem dsub (dd : DReg) (da : DReg) (db : DReg) : Statement (.dsub dd da db) := by
  refine ⟨⟨"DSUB", 0x28000000#32, 0xFF888FFF#32⟩, by simp [opcodeTable], rfl, ?_⟩
  refine (wordOf_and _ 255 _ _ _ 8 8 8 15 _ 255).trans ?_
  simp [dCode_and_eight]

theorem tprod (dd : DReg) (wa : WReg) (wb : WReg) : Statement (.tprod dd wa wb) := by
  refine ⟨⟨"TPROD", 0x29000000#32, 0xFF800FFF#32⟩, by simp [opcodeTable], rfl, ?_⟩
  refine (wordOf_and _ 255 _ _ _ 8 0 0 15 _ 255).trans ?_
  simp [dCode_and_eight]

theorem tsqr (dd : DReg) (wa : WReg) : Statement (.tsqr dd wa) := by
  refine ⟨⟨"TSQR", 0x2A000000#32, 0xFF80FFFF#32⟩, by simp [opcodeTable], rfl, ?_⟩
  refine (wordOf_and _ 255 _ _ _ 8 0 15 15 _ 255).trans ?_
  simp [dCode_and_eight]

theorem dsqr (dd : DReg) (da : DReg) : Statement (.dsqr dd da) := by
  refine ⟨⟨"DSQR", 0x2B000000#32, 0xFF88FFFF#32⟩, by simp [opcodeTable], rfl, ?_⟩
  refine (wordOf_and _ 255 _ _ _ 8 8 15 15 _ 255).trans ?_
  simp [dCode_and_eight]

theorem dmulw (dd : DReg) (da : DReg) (wb : WReg) : Statement (.dmulw dd da wb) := by
  refine ⟨⟨"DMULW", 0x2C000000#32, 0xFF880FFF#32⟩, by simp [opcodeTable], rfl, ?_⟩
  refine (wordOf_and _ 255 _ _ _ 8 8 0 15 _ 255).trans ?_
  simp [dCode_and_eight]

theorem dmul (dd : DReg) (da : DReg) (db : DReg) : Statement (.dmul dd da db) := by
  refine ⟨⟨"DMUL", 0x2D000000#32, 0xFF888FFF#32⟩, by simp [opcodeTable], rfl, ?_⟩
  refine (wordOf_and _ 255 _ _ _ 8 8 8 15 _ 255).trans ?_
  simp [dCode_and_eight]

theorem ddivw (dd : DReg) (da : DReg) (wb : WReg) : Statement (.ddivw dd da wb) := by
  refine ⟨⟨"DDIVW", 0x2E000000#32, 0xFF880FFF#32⟩, by simp [opcodeTable], rfl, ?_⟩
  refine (wordOf_and _ 255 _ _ _ 8 8 0 15 _ 255).trans ?_
  simp [dCode_and_eight]

theorem ddiv (dd : DReg) (da : DReg) (db : DReg) : Statement (.ddiv dd da db) := by
  refine ⟨⟨"DDIV", 0x2F000000#32, 0xFF888FFF#32⟩, by simp [opcodeTable], rfl, ?_⟩
  refine (wordOf_and _ 255 _ _ _ 8 8 8 15 _ 255).trans ?_
  simp [dCode_and_eight]

theorem rred (dd : DReg) (da : DReg) : Statement (.rred dd da) := by
  refine ⟨⟨"RRED", 0x40000000#32, 0xFF88FFFF#32⟩, by simp [opcodeTable], rfl, ?_⟩
  refine (wordOf_and _ 255 _ _ _ 8 8 15 15 _ 255).trans ?_
  simp [dCode_and_eight]

theorem epolyP (dd : DReg) (wa : WReg) : Statement (.epolyP dd wa) := by
  refine ⟨⟨"EPOLY.P", 0x42000000#32, 0xFF80FFFF#32⟩, by simp [opcodeTable], rfl, ?_⟩
  refine (wordOf_and _ 255 _ _ _ 8 0 15 15 _ 255).trans ?_
  simp [dCode_and_eight]

theorem epolyM (dd : DReg) (wa : WReg) : Statement (.epolyM dd wa) := by
  refine ⟨⟨"EPOLY.M", 0x43000000#32, 0xFF80FFFF#32⟩, by simp [opcodeTable], rfl, ?_⟩
  refine (wordOf_and _ 255 _ _ _ 8 0 15 15 _ 255).trans ?_
  simp [dCode_and_eight]

theorem tcombP (dd : DReg) (da : DReg) : Statement (.tcombP dd da) := by
  refine ⟨⟨"TCOMB.P", 0x44000000#32, 0xFF88FFFF#32⟩, by simp [opcodeTable], rfl, ?_⟩
  refine (wordOf_and _ 255 _ _ _ 8 8 15 15 _ 255).trans ?_
  simp [dCode_and_eight]

theorem tcombM (dd : DReg) (da : DReg) : Statement (.tcombM dd da) := by
  refine ⟨⟨"TCOMB.M", 0x45000000#32, 0xFF88FFFF#32⟩, by simp [opcodeTable], rfl, ?_⟩
  refine (wordOf_and _ 255 _ _ _ 8 8 15 15 _ 255).trans ?_
  simp [dCode_and_eight]

theorem lcorrP (dd : DReg) (wa : WReg) : Statement (.lcorrP dd wa) := by
  refine ⟨⟨"LCORR.P", 0x46000000#32, 0xFF80FFFF#32⟩, by simp [opcodeTable], rfl, ?_⟩
  refine (wordOf_and _ 255 _ _ _ 8 0 15 15 _ 255).trans ?_
  simp [dCode_and_eight]

theorem lcorrM (dd : DReg) (wa : WReg) : Statement (.lcorrM dd wa) := by
  refine ⟨⟨"LCORR.M", 0x47000000#32, 0xFF80FFFF#32⟩, by simp [opcodeTable], rfl, ?_⟩
  refine (wordOf_and _ 255 _ _ _ 8 0 15 15 _ 255).trans ?_
  simp [dCode_and_eight]

theorem rsclP (wd : WReg) (da : DReg) : Statement (.rsclP wd da) := by
  refine ⟨⟨"RSCL.P", 0x48000000#32, 0xFF08FFFF#32⟩, by simp [opcodeTable], rfl, ?_⟩
  refine (wordOf_and _ 255 _ _ _ 0 8 15 15 _ 255).trans ?_
  simp [dCode_and_eight]

theorem rsclM (wd : WReg) (da : DReg) : Statement (.rsclM wd da) := by
  refine ⟨⟨"RSCL.M", 0x49000000#32, 0xFF08FFFF#32⟩, by simp [opcodeTable], rfl, ?_⟩
  refine (wordOf_and _ 255 _ _ _ 0 8 15 15 _ 255).trans ?_
  simp [dCode_and_eight]

theorem expx2 (wd : WReg) (wa : WReg) : Statement (.expx2 wd wa) := by
  refine ⟨⟨"EXPX2", 0x4A000000#32, 0xFF00FFFF#32⟩, by simp [opcodeTable], rfl, ?_⟩
  refine (wordOf_and _ 255 _ _ _ 0 0 15 15 _ 255).trans ?_
  simp

theorem expmx2 (wd : WReg) (wa : WReg) : Statement (.expmx2 wd wa) := by
  refine ⟨⟨"EXPMX2", 0x4B000000#32, 0xFF00FFFF#32⟩, by simp [opcodeTable], rfl, ?_⟩
  refine (wordOf_and _ 255 _ _ _ 0 0 15 15 _ 255).trans ?_
  simp

theorem jmp (target : BitVec 8) : Statement (.jmp target) := by
  refine ⟨⟨"JMP", 0x60000000#32, 0xFFFFFF00#32⟩, by simp [opcodeTable], rfl, ?_⟩
  refine (wordOf_and _ 255 _ _ _ 15 15 15 15 _ 0).trans ?_
  simp

theorem bflt (wa : WReg) (wb : WReg) (target : BitVec 8) : Statement (.bflt wa wb target) := by
  refine ⟨⟨"BFLT", 0x61000000#32, 0xFFF00F00#32⟩, by simp [opcodeTable], rfl, ?_⟩
  refine (wordOf_and _ 255 _ _ _ 15 0 0 15 _ 0).trans ?_
  simp

theorem bfeq (wa : WReg) (wb : WReg) (target : BitVec 8) : Statement (.bfeq wa wb target) := by
  refine ⟨⟨"BFEQ", 0x62000000#32, 0xFFF00F00#32⟩, by simp [opcodeTable], rfl, ?_⟩
  refine (wordOf_and _ 255 _ _ _ 15 0 0 15 _ 0).trans ?_
  simp

end EncodeMatchesRow

end Sys2Proof.Laws
end

