-- ==== Sys2Proof/Tests/Slice0.lean ====
section
/-! SUPPORT. Tests. Expected words and flags are those of spec/95_test_vectors.md, by the part named in each
comment; encodings are written out from 30_encoding.md R121 and R127. The witnesses show, for each obligation
with hypotheses, a state and operands that meet them. -/

namespace Sys2Proof.Tests

set_option Elab.async false

open Sys2Proof.Machine

/-! ### Helpers -/

/-- A running core with reset's registers. -/
def ready : State := { State.reset with status := .running }

/-- The outcome is a next state with a property. -/
def leaves (o : Out) (p : State → Bool) : Bool :=
  match o with
  | .next t => p t
  | _ => false

/-- One step that fetches this word leaves a state with a property. -/
def runs (word : Half) (s : State) (p : State → Bool) : Bool := leaves (step (s.placeWord word)) p

/-- The word takes this fault at PC 0. -/
def faults (word : Half) (s : State) (c : Cause) : Bool :=
  runs word s fun t => t.status == .faulted && t.cause == c && t.epc == 0 && t.finst == word && t.pc == 0

/-- A decoding, without the reason of a refusal. -/
def decoded (word : Half) : Option Instr := (decode word).toOption

/-- A decoding refused for this reason. -/
def refusedFor (word : Half) (e : Illegal) : Bool :=
  match decode word with
  | .ok _ => false
  | .error x => x == e

/-- A stopped core whose host makes this access next. -/
def withAccess (a : HostAccess) : State := { State.reset with host := [.access a] }

def one : Word := 0x3FF0000000000000#64
def tiny60 : Word := 0x3C30000000000000#64
def qNaN : Word := 0x7FF8000000000001#64
def sNaN : Word := 0x7FF0000000000001#64
def posInf : Word := 0x7FF0000000000000#64
def negInf : Word := 0xFFF0000000000000#64
def negZero : Word := 0x8000000000000000#64
def maxFinite : Word := 0x7FEFFFFFFFFFFFFF#64

/-! ### Well-formedness (R132(d)) -/

theorem test_ddec_same_register_ill_formed : (Instr.ddec 3 3 0).wf = false := by decide
theorem test_ddec_two_registers_well_formed : (Instr.ddec 3 4 0).wf = true := by decide

/-! ### Decoding: every constructor's word by hand (R121, R122, R127) -/

theorem test_decode_system :
    decoded 0x01000000#32 = some .nop ∧ decoded 0x02000000#32 = some .halt ∧
    decoded 0x03000000#32 = some .fclr ∧ decoded 0x04300000#32 = some (.frd 3) ∧
    decoded 0x05600000#32 = some (.krd 6) ∧ decoded 0x06F00000#32 = some (.kwr 15) := by decide

theorem test_decode_data_movement :
    decoded 0x10300010#32 = some (.ldw 3 0x10) ∧ decoded 0x11F000FF#32 = some (.stw 15 0xFF) ∧
    decoded 0x12700004#32 = some (.ldd 7 4) ∧ decoded 0x13200040#32 = some (.std 2 0x40) ∧
    decoded 0x14270000#32 = some (.movw 2 7) ∧ decoded 0x15050000#32 = some (.dmov 0 5) := by decide

theorem test_decode_kernel_moves_and_sums :
    decoded 0x20160000#32 = some (.dneg 1 6) ∧ decoded 0x211AB000#32 = some (.dmk 1 10 11) ∧
    decoded 0x22121000#32 = some (.ddec 1 2 1) ∧ decoded 0x237F0000#32 = some (.split 7 15) ∧
    decoded 0x24189000#32 = some (.tsum 1 8 9) ∧ decoded 0x25198000#32 = some (.ftsum 1 9 8) ∧
    decoded 0x2612F000#32 = some (.daddw 1 2 15) ∧ decoded 0x27201000#32 = some (.dadd 2 0 1) ∧
    decoded 0x28765000#32 = some (.dsub 7 6 5) := by decide

theorem test_decode_kernel_products_and_quotients :
    decoded 0x291CD000#32 = some (.tprod 1 12 13) ∧ decoded 0x2A0E0000#32 = some (.tsqr 0 14) ∧
    decoded 0x2B340000#32 = some (.dsqr 3 4) ∧ decoded 0x2C12F000#32 = some (.dmulw 1 2 15) ∧
    decoded 0x2D123000#32 = some (.dmul 1 2 3) ∧ decoded 0x2E45E000#32 = some (.ddivw 4 5 14) ∧
    decoded 0x2F456000#32 = some (.ddiv 4 5 6) := by decide

theorem test_decode_pipeline :
    decoded 0x40100000#32 = some (.rred 1 0) ∧ decoded 0x422F0000#32 = some (.epolyP 2 15) ∧
    decoded 0x43210000#32 = some (.epolyM 2 1) ∧ decoded 0x44320000#32 = some (.tcombP 3 2) ∧
    decoded 0x45320000#32 = some (.tcombM 3 2) ∧ decoded 0x464E0000#32 = some (.lcorrP 4 14) ∧
    decoded 0x474E0000#32 = some (.lcorrM 4 14) ∧ decoded 0x48F50000#32 = some (.rsclP 15 5) ∧
    decoded 0x49F50000#32 = some (.rsclM 15 5) ∧ decoded 0x4A1F0000#32 = some (.expx2 1 15) ∧
    decoded 0x4BF10000#32 = some (.expmx2 15 1) := by decide

theorem test_decode_control :
    decoded 0x600000FE#32 = some (.jmp 254) ∧ decoded 0x61042007#32 = some (.bflt 4 2 7) ∧
    decoded 0x620F0009#32 = some (.bfeq 15 0 9) := by decide

/-- The illegal rows of L2.5, by the clause of R132. -/
theorem test_decode_illegal :
    refusedFor 0x00000000#32 .opcode ∧ refusedFor 0x41100000#32 .opcode ∧ refusedFor 0x4C000000#32 .opcode ∧
    refusedFor 0x63000000#32 .opcode ∧ refusedFor 0xFFFFFFFF#32 .opcode ∧
    refusedFor 0x01000001#32 .reserved ∧ refusedFor 0x01000100#32 .reserved ∧
    refusedFor 0x04310000#32 .reserved ∧ refusedFor 0x10301010#32 .reserved ∧
    refusedFor 0x4A100001#32 .reserved ∧ refusedFor 0x60100000#32 .reserved ∧
    refusedFor 0x61442007#32 .reserved ∧ refusedFor 0x12800004#32 .dField ∧
    refusedFor 0x27083000#32 .dField ∧ refusedFor 0x27008000#32 .dField ∧
    refusedFor 0x22111000#32 .ddecSame := by decide

/-! ### System, data movement and control (L2.6) -/

theorem test_nop : runs 0x01000000#32 ready fun t => t.pc == 1 := by decide +kernel
theorem test_halt_keeps_pc : runs 0x02000000#32 { ready with pc := 3 } fun t => t.pc == 3 && t.status == .halted := by
  decide +kernel
theorem test_fclr : runs 0x03000000#32 { ready with fflags := 0b10001#5 } fun t => t.fflags == 0 := by
  decide +kernel
theorem test_frd : runs 0x04400000#32 { ready with fflags := 3 } fun t => t.readW 4 == 3 && t.fflags == 3 := by
  decide +kernel
theorem test_krd : runs 0x05600000#32 { ready with k := 46 } fun t => t.readW 6 == 0x2E := by decide +kernel
theorem test_kwr_takes_low_half :
    runs 0x06700000#32 (ready.writeW 7 0xFFFFFFFF00000140#64) fun t => t.k == 320 := by decide +kernel

theorem test_ldw_does_not_quiet :
    runs 0x100000FF#32 (ready.dmemWrite 255 sNaN) fun t => t.readW 0 == sNaN && t.fflags == 0 := by decide +kernel
theorem test_ldw_unwritten_stops :
    ∃ e, step (ready.placeWord 0x10300010#32) = .fault e ∧ e = .unwrittenDmem 16 := ⟨_, rfl, rfl⟩
theorem test_stw :
    runs 0x11100020#32 (ready.writeW 1 0x4000000000000000#64) fun t =>
      t.dmemRead 32 == some 0x4000000000000000#64 && t.dmemRead 33 == none := by decide +kernel
theorem test_ldd :
    runs 0x12100004#32 ((ready.dmemWrite 4 one).dmemWrite 5 tiny60) fun t => t.readD 1 == ⟨one, tiny60⟩ := by
  decide +kernel
theorem test_ldd_odd_is_misaligned : faults 0x12100005#32 ready .misaligned := by decide +kernel
theorem test_std :
    runs 0x13200040#32 (ready.writeD 2 ⟨one, tiny60⟩) fun t =>
      t.dmemRead 64 == some one && t.dmemRead 65 == some tiny60 := by decide +kernel
theorem test_std_odd_writes_nothing :
    faults 0x13200041#32 ready .misaligned ∧ runs 0x13200041#32 ready fun t => t.dmem == [] := by decide +kernel
theorem test_movw :
    runs 0x14270000#32 (ready.writeW 7 0xFFF0000000000001#64) fun t => t.readW 2 == 0xFFF0000000000001#64 := by
  decide +kernel
theorem test_dmov : runs 0x15050000#32 (ready.writeD 5 ⟨one, one⟩) fun t => t.readD 0 == ⟨one, one⟩ := by
  decide +kernel

theorem test_jmp : runs 0x60000000#32 { ready with pc := 7 } fun t => t.pc == 0 := by decide +kernel
theorem test_bflt_taken :
    runs 0x61012005#32 ((ready.writeW 1 negInf).writeW 2 0xFFEFFFFFFFFFFFFF#64) fun t => t.pc == 5 := by
  decide +kernel
theorem test_bflt_signalling :
    runs 0x61012005#32 ((ready.writeW 1 sNaN).writeW 2 one) fun t => t.pc == 1 && t.fflags == flagNV := by
  decide +kernel
theorem test_bfeq_zeros : runs 0x62012009#32 (ready.writeW 2 negZero) fun t => t.pc == 9 := by decide +kernel
theorem test_bfeq_quiet_nan :
    runs 0x62000009#32 (ready.writeW 0 qNaN) fun t => t.pc == 1 && t.fflags == 0 := by decide +kernel

/-! ### Kernel (L2.1) -/

theorem test_dneg_keeps_signalling :
    runs 0x20160000#32 (ready.writeD 6 ⟨sNaN, one⟩) fun t =>
      t.readD 1 == ⟨0xFFF0000000000001#64, 0xBFF0000000000000#64⟩ && t.fflags == 0 := by decide +kernel
theorem test_dmk_not_normalized :
    runs 0x211AB000#32 ((ready.writeW 10 one).writeW 11 one) fun t => t.readD 1 == ⟨one, one⟩ := by decide +kernel
theorem test_ddec :
    runs 0x22121000#32 (ready.writeD 1 ⟨one, tiny60⟩) fun t => t.readW 1 == one && t.readW 2 == tiny60 := by
  decide +kernel
theorem test_ddec_same_register_illegal : faults 0x22111000#32 ready .illegal := by decide +kernel

theorem test_split :
    runs 0x237F0000#32 (ready.writeW 15 0x3FB999999999999A#64) fun t =>
      t.readD 7 == ⟨0x3FB9999998000000#64, 0x3DF99999A0000000#64⟩ && t.fflags == flagNX := by decide +kernel
theorem test_split_overflow :
    runs 0x237F0000#32 (ready.writeW 15 0x7E40000000000000#64) fun t =>
      t.readD 7 == ⟨defaultNaN, defaultNaN⟩ && t.fflags == 0b10101#5 := by decide +kernel
theorem test_tsum :
    runs 0x24189000#32 ((ready.writeW 8 0x3FB999999999999A#64).writeW 9 0x3FC999999999999A#64) fun t =>
      t.readD 1 == ⟨0x3FD3333333333334#64, 0xBC80000000000000#64⟩ && t.fflags == flagNX := by decide +kernel
theorem test_ftsum_contract_broken :
    runs 0x25198000#32 ((ready.writeW 9 tiny60).writeW 8 one) fun t => t.readD 1 == ⟨one, 0⟩ := by decide +kernel
theorem test_daddw :
    runs 0x2612F000#32 ((ready.writeD 2 ⟨one, tiny60⟩).writeW 15 0x3C20000000000000#64) fun t =>
      t.readD 1 == ⟨one, 0x3C38000000000000#64⟩ && t.fflags == flagNX := by decide +kernel
theorem test_dadd :
    runs 0x27201000#32 ((ready.writeD 0 ⟨one, tiny60⟩).writeD 1 ⟨one, 0x3C20000000000000#64⟩) fun t =>
      t.readD 2 == ⟨0x4000000000000000#64, 0x3C38000000000000#64⟩ && t.fflags == flagNX := by decide +kernel
theorem test_dsub :
    runs 0x28765000#32 ((ready.writeD 6 ⟨one, tiny60⟩).writeD 5 ⟨one, 0x3C20000000000000#64⟩) fun t =>
      t.readD 7 == ⟨0x3C20000000000000#64, 0⟩ && t.fflags == 0 := by decide +kernel
theorem test_tprod :
    runs 0x291CD000#32 ((ready.writeW 12 0x3FF0000000000001#64).writeW 13 0x3FEFFFFFFFFFFFFF#64) fun t =>
      t.readD 1 == ⟨one, 0x3C9FFFFFFFFFFFFE#64⟩ && t.fflags == flagNX := by decide +kernel
theorem test_tsqr :
    runs 0x2A0E0000#32 (ready.writeW 14 0x3FF0000000000001#64) fun t =>
      t.readD 0 == ⟨0x3FF0000000000002#64, 0x3970000000000000#64⟩ && t.fflags == flagNX := by decide +kernel
theorem test_dsqr :
    runs 0x2B340000#32 (ready.writeD 4 ⟨one, tiny60⟩) fun t =>
      t.readD 3 == ⟨one, 0x3C40000000000000#64⟩ && t.fflags == flagNX := by decide +kernel
theorem test_dmulw :
    runs 0x2C12F000#32 ((ready.writeD 2 ⟨one, tiny60⟩).writeW 15 0x4008000000000000#64) fun t =>
      t.readD 1 == ⟨0x4008000000000000#64, 0x3C48000000000000#64⟩ && t.fflags == flagNX := by decide +kernel
theorem test_dmul :
    runs 0x2D123000#32 ((ready.writeD 2 ⟨one, tiny60⟩).writeD 3 ⟨one, 0x3C20000000000000#64⟩) fun t =>
      t.readD 1 == ⟨one, 0x3C38000000000000#64⟩ && t.fflags == flagNX := by decide +kernel
theorem test_ddivw :
    runs 0x2E45E000#32 ((ready.writeD 5 ⟨one, 0⟩).writeW 14 0x4008000000000000#64) fun t =>
      t.readD 4 == ⟨0x3FD5555555555555#64, 0x3C75555555555555#64⟩ && t.fflags == flagNX := by decide +kernel
theorem test_ddivw_by_zero :
    runs 0x2E45E000#32 (ready.writeD 5 ⟨one, 0⟩) fun t =>
      t.readD 4 == ⟨0xFFF8000000000000#64, 0xFFF8000000000000#64⟩ && t.fflags == 0b11000#5 := by decide +kernel
theorem test_ddiv :
    runs 0x2F456000#32 ((ready.writeD 5 ⟨one, 0⟩).writeD 6 ⟨0x4008000000000000#64, 0⟩) fun t =>
      t.readD 4 == ⟨0x3FD5555555555555#64, 0x3C75555555555555#64⟩ && t.fflags == flagNX := by decide +kernel

/-! ### Pipeline (L2.2, L2.3) -/

theorem test_rred :
    runs 0x40100000#32 (ready.writeD 0 ⟨one, 0⟩) fun t =>
      t.k == 46 && t.readD 1 == ⟨0x3F6D7FB1784CB823#64, 0x3BF0DC8ADCA00000#64⟩ && t.fflags == flagNX := by
  decide +kernel
theorem test_rred_range : faults 0x40100000#32 (ready.writeD 0 ⟨0xBFF0000000000000#64, 0⟩) .range := by
  decide +kernel
theorem test_epolyP :
    runs 0x422F0000#32 (ready.writeW 15 0x3F847AE147AE147B#64) fun t =>
      t.readD 2 == ⟨0x3F84952E9791133D#64, 0x3C2E2EC295ECB437#64⟩ && t.fflags == flagNX := by decide +kernel
theorem test_epolyM :
    runs 0x43210000#32 (ready.writeW 1 0x3F847AE147AE147B#64) fun t =>
      t.readD 2 == ⟨0xBF8460C0B518C09E#64, 0x3C2A64B23BF75E56#64⟩ && t.fflags == flagNX := by decide +kernel
theorem test_tcombP :
    runs 0x44320000#32 ({ ready with k := 33 }.writeD 2 ⟨0x3F50624DD2F1A9FC#64, 0⟩) fun t =>
      t.readD 3 == ⟨0x3FF05DE05C82DAD6#64, 0xBC7E1966281950A2#64⟩ && t.fflags == flagNX := by decide +kernel
theorem test_tcombM :
    runs 0x45320000#32 ({ ready with k := 33 }.writeD 2 ⟨0x3F50624DD2F1A9FC#64, 0⟩) fun t =>
      t.readD 3 == ⟨0x3FEF587A924E617B#64, 0x3C6796C235E9D3FA#64⟩ && t.fflags == flagNX := by decide +kernel
theorem test_lcorrP :
    runs 0x464E0000#32 (ready.writeW 14 0x3F50624DD2F1A9FC#64) fun t =>
      t.readD 4 == ⟨0x3FF0041919AC7970#64, 0x3C87400000000000#64⟩ && t.fflags == flagNX := by decide +kernel
theorem test_lcorrM :
    runs 0x474E0000#32 (ready.writeW 14 0x3F50624DD2F1A9FC#64) fun t =>
      t.readD 4 == ⟨0x3FEFF7CFE5860136#64, 0x3C88400000000000#64⟩ && t.fflags == flagNX := by decide +kernel
/-- By hand from R267's pseudocode (log 22). -/
theorem test_lcorrP_infinite :
    runs 0x464E0000#32 (ready.writeW 14 posInf) fun t =>
      t.readD 4 == ⟨posInf, defaultNaN⟩ && t.fflags == flagNV := by decide +kernel
theorem test_rsclP :
    runs 0x48F50000#32 ({ ready with k := 320 }.writeD 5 ⟨0x3FF8000000000000#64, 0⟩) fun t =>
      t.readW 15 == 0x4098000000000000#64 && t.fflags == 0 := by decide +kernel
theorem test_rsclP_range : faults 0x48F50000#32 (ready.writeD 5 ⟨posInf, 0⟩) .range := by decide +kernel
theorem test_rsclM_rounds_once :
    runs 0x49F50000#32 ({ ready with k := 34400 }.writeD 5 ⟨0x3FF8000000000000#64, 0⟩) fun t =>
      t.readW 15 == 1 && t.fflags == flagUF ||| flagNX := by decide +kernel
theorem test_rsclM_exact_subnormal :
    runs 0x49F50000#32 ({ ready with k := 32736 }.writeD 5 ⟨0x3FF8000000000000#64, 0⟩) fun t =>
      t.readW 15 == 0x000C000000000000#64 && t.fflags == 0 := by decide +kernel

theorem test_expx2_of_one :
    runs 0x4A1F0000#32 (ready.writeW 15 one) fun t =>
      t.readW 1 == 0x4005BF0A8B145769#64 && t.fflags == flagNX && t.k == 0 := by decide +kernel
theorem test_expx2_saturates :
    runs 0x4A1F0000#32 (ready.writeW 15 0x403AA4499161CD48#64) fun t =>
      t.readW 1 == posInf && t.fflags == flagOF ||| flagNX := by decide +kernel
theorem test_expmx2_of_one :
    runs 0x4BF10000#32 (ready.writeW 1 one) fun t =>
      t.readW 15 == 0x3FD78B56362CEF38#64 && t.fflags == flagNX := by decide +kernel
theorem test_expmx2_smallest :
    runs 0x4BF10000#32 (ready.writeW 1 0x403B4C109B69AD8D#64) fun t =>
      t.readW 15 == 1 && t.fflags == flagUF ||| flagNX := by decide +kernel

/-! ### Step, fetch and host port -/

/-- L2.6: `nop` at 255 leaves PC at 256. -/
theorem test_pc_reaches_256 : runs 0x01000000#32 { ready with pc := 255 } fun t => t.pc == 256 := by
  decide +kernel
/-- L2.6: a fetch at 256. -/
theorem test_fetch_fault :
    leaves (step { ready with pc := 256 }) fun t => t.cause == .fetch && t.epc == 256 && t.finst == 0 := by
  decide +kernel
theorem test_withFetchWord_runs_the_word :
    leaves (step (State.reset.withFetchWord 32 0x06000000)) fun t => t.pc == 1 && t.k == 0 := by decide +kernel
/-- R55: START and SRESET together do SRESET only. -/
theorem test_sreset_wins :
    leaves (step { ready with k := 7, host := [.access (.write 0 32 3)] }) fun t =>
      t.status == .idle && t.k == 0 := by decide +kernel

/-! ### Witnesses: states and operands that meet the hypotheses of the obligations -/

/-- A NOP at this address, and PC there. -/
def nopAt (pc : BitVec 9) : State := { ready with pc := pc }.placeWord 0x01000000#32

theorem witness_DecodeOfEncodeIsTheInstruction :
    (Instr.ddec 0 15 7).wf = true ∧ (Instr.ldw 15 255).wf = true := by decide

theorem witness_DecodedWordIsItsEncoding : decode 0x220F7000#32 = .ok (.ddec 0 15 7) := rfl

theorem witness_StepRunsTheDecodedInstruction :
    (nopAt 0).status = .running ∧ (nopAt 0).pc.toNat < 256 ∧ (nopAt 255).pc.toNat = 255 ∧
      (nopAt 0).imemRead 0 = some 0x01000000#32 ∧ (nopAt 255).imemRead 255 = some 0x01000000#32 ∧
      (nopAt 255).status = .running ∧ (nopAt 0).host = [] ∧
      ({ nopAt 0 with host := [.idle] } : State).host = [.idle] := by decide +kernel

theorem witness_StepRunsTheDecodedInstruction_word : decode 0x01000000#32 = .ok .nop := rfl

theorem witness_FetchFaultExactlyBeyondImem_fetch :
    let s := { ready with pc := 256 }
    s.status = .running ∧ s.host = [] ∧ 256 ≤ s.pc.toNat ∧ 256 ≤ ({ ready with pc := 511 } : State).pc.toNat := by
  decide

theorem witness_FetchFaultExactlyBeyondImem_fallthrough :
    (nopAt 255).pc.toNat < 256 ∧ leaves (step (nopAt 255)) fun t => decide (256 ≤ t.pc.toNat) := by
  decide +kernel

theorem witness_FetchFaultExactlyBeyondImem_host :
    let s := withAccess (.write 0x014 32 0x1FF)
    s.pc.toNat < 256 ∧ leaves (step s) fun t => decide (256 ≤ t.pc.toNat) := by decide +kernel

/-- A fault of a running core at the last fetch address. -/
theorem witness_FetchFaultExactlyBeyondImem_below :
    let s := { ready with pc := 255 }.placeWord 0x00000000#32
    s.status = .running ∧ s.pc.toNat < 256 ∧ leaves (step s) fun t => t.status == .faulted := by decide +kernel

theorem witness_IllegalWordTakesIllegalFault :
    let s := ready.placeWord 0x00000000#32
    s.status = .running ∧ s.host = [] ∧ s.pc.toNat < 256 ∧ s.imemRead s.pc.toNat = some 0x00000000#32 := by
  decide +kernel

theorem witness_IllegalWordTakesIllegalFault_word : decode 0x00000000#32 = .error .opcode := rfl

theorem witness_UnwrittenReadStopsTheModel :
    ready.status = .running ∧ ready.host = [] ∧ ready.pc.toNat < 256 ∧ ready.imemRead ready.pc.toNat = none ∧
      ready.dmemRead (0#8).toNat = none ∧ ready.dmemRead (255#8).toNat = none ∧ isOdd 0 = false ∧
      isOdd 254 = false ∧ ready.dmemRead (254#8).toNat = none ∧
      (ready.dmemWrite 254 one).dmemRead (254#8).toNat = some one ∧
      (ready.dmemWrite 254 one).dmemRead ((254#8).toNat + 1) = none := by decide +kernel

/-- Host reads of the first and last IMEM word and of both halves of a DMEM word with one byte written. -/
theorem witness_UnwrittenReadStopsTheModel_host :
    let s := { State.reset with dmem := State.reset.dmem.writeByte 0 1, host := [.access (.read 0x7FC 32)] }
    s.host = [.access (.read 0x7FC 32)] ∧ s.status ≠ .running ∧ (0x400#12).toNat = 0x400 + 4 * 0 ∧
      (0x7FC#12).toNat = 0x400 + 4 * 255 ∧ s.imemRead 255 = none ∧ (0x800#12).toNat = 0x800 + 8 * 0 ∧
      s.dmem.readByte (dmemByte 0 + 1) = none ∧ (0xFFC#12).toNat = 0x804 + 8 * 255 ∧
      s.dmem.readByte (dmemByte 255 + 4 + 3) = none := by decide +kernel

theorem witness_StoppedCoreKeepsItsState :
    State.reset.status ≠ .running ∧ State.reset.host = [] ∧
      ({ State.reset with status := .faulted, cause := .range } : State).status ≠ .running := by decide

/-- START, HALT, a fault and SRESET answer next states. -/
theorem witness_StatusChangesOnlyAsListed :
    (leaves (step (withAccess (.write 0 32 1))) fun t => t.status == .running) ∧
      (runs 0x02000000#32 ready fun t => t.status == .halted) ∧
      (runs 0x00000000#32 ready fun t => t.status == .faulted) ∧
      (leaves (step { ready with host := [.access (.write 0 32 2)] }) fun t => t.status == .idle) ∧
      leaves (step { ready with host := [.powerOn] }) fun t => t.status == .idle := by decide +kernel

theorem witness_PcAdvance :
    ready.status = .running ∧ (leaves (exec (.ldd 0 1) ready) fun t => t.status == .faulted) ∧
      (leaves (exec .halt ready) fun _ => true) ∧ (leaves (exec (.jmp 255) ready) fun _ => true) ∧
      (leaves (exec (.bflt 0 1 255) ready) fun _ => true) ∧ (leaves (exec (.bfeq 0 1 0) ready) fun _ => true) ∧
      (leaves (exec .nop ready) fun t => t.status != .faulted) ∧ Instr.nop ≠ .halt ∧
      isBranch .nop = false := by decide +kernel

theorem witness_CtrlCommands :
    (withAccess (.read 0 32)).host = [.access (.read 0 32)] ∧ (withAccess (.read 0 32)).status ≠ .running ∧
      (withAccess (.write 0 32 0xFFFFFFFC)).host = [.access (.write 0 32 0xFFFFFFFC)] ∧
      ({ ready with host := [.access (.write 0 32 1)] } : State).host = [.access (.write 0 32 1)] := by decide

theorem witness_HostBreachesAreRefused :
    let s := { ready with host := [.access (.read 0xFFC 32)] }
    s.host = [.access (.read 0xFFC 32)] ∧ s.status = .running ∧ (0xFFC#12).toNat % 4 = 0 ∧ 0xFFC#12 ≠ 0x004 ∧
      (0x004#12).toNat % 4 = 0 ∧ 0x004#12 ≠ 0x000 ∧ (64 ≠ 32 ∨ (0#12).toNat % 4 ≠ 0) ∧
      (32 ≠ 32 ∨ (0xFFF#12).toNat % 4 ≠ 0) := by decide

/-- A stopped core with the last word of IMEM and of DMEM written, whose host reads at this offset. -/
def readAt (off : BitVec 12) : State :=
  { ((State.reset.imemWrite 255 0x01000000#32).dmemWrite 255 one).writeW 15 one with
    host := [.access (.read off 32)] }

theorem witness_HostReadAnswersTheMap :
    (readAt 0xFFC).host = [.access (.read 0xFFC 32)] ∧ (readAt 0xFFC).status ≠ .running ∧
      (readAt 0xFFC).imemRead 255 = some 0x01000000#32 ∧ (readAt 0xFFC).dmemRead 255 = some one ∧
      (0x178#12).toNat = 0x100 + 8 * 15 ∧ (0x17C#12).toNat = 0x104 + 8 * 15 ∧
      (0x1F0#12).toNat = 0x180 + 16 * 7 ∧ (0x1F4#12).toNat = 0x184 + 16 * 7 ∧
      (0x1F8#12).toNat = 0x188 + 16 * 7 ∧ (0x1FC#12).toNat = 0x18C + 16 * 7 ∧
      (0x7FC#12).toNat = 0x400 + 4 * 255 ∧ (0xFF8#12).toNat = 0x800 + 8 * 255 ∧
      (0xFFC#12).toNat = 0x804 + 8 * 255 := by decide +kernel

theorem witness_HostReadAnswersTheMap_running :
    let s := { ready with host := [.access (.read 0x004 32)] }
    s.host = [.access (.read 0x004 32)] ∧ s.status = .running := by decide

/-- What the port answers at the first and last offset of every part of the map. -/
theorem test_host_reads :
    [((0x000 : BitVec 12), (0 : Half)), (0x004, 0), (0x008, 0), (0x00C, 0), (0x010, 0), (0x014, 0), (0x018, 0),
      (0x01C, 0), (0x020, 0x44445801), (0x024, 0), (0x0FC, 0), (0x100, 0), (0x104, 0), (0x178, 0),
      (0x17C, 0x3FF00000), (0x180, 0), (0x184, 0), (0x188, 0), (0x18C, 0), (0x1FC, 0), (0x200, 0), (0x3FC, 0),
      (0x7FC, 0x01000000), (0xFF8, 0), (0xFFC, 0x3FF00000)].all fun p =>
        leaves (step (readAt p.1)) fun t => t.hostReply == p.2 := by decide +kernel

theorem witness_HostWritesByHalves :
    State.reset.status ≠ .running ∧
      ({ State.reset with
          host := [.access (.write (BitVec.ofNat 12 (0x800 + 8 * 255)) 32 1),
            .access (.write (BitVec.ofNat 12 (0x804 + 8 * 255)) 32 2)] } : State).host =
        [.access (.write 0xFF8 32 1), .access (.write 0xFFC 32 2)] ∧
      (BitVec.ofNat 12 (0x104 + 8 * 15), BitVec.ofNat 12 (0x18C + 16 * 7), BitVec.ofNat 12 (0x400 + 4 * 255)) =
        (0x17C, 0x1FC, 0x7FC) := by decide

/-- Both halves of the last DMEM word, of W15 and of D7. -/
theorem test_host_writes :
    let two := fun lo hi : BitVec 12 => stepN 2
      { State.reset with host := [.access (.write lo 32 1), .access (.write hi 32 2)] }
    ((two 0xFF8 0xFFC).any fun t => t.dmemRead 255 == some 0x0000000200000001#64) ∧
      ((two 0x178 0x17C).any fun t => t.readW 15 == 0x0000000200000001#64) ∧
      ((two 0x1F0 0x1F4).any fun t => t.readD 7 == ⟨0x0000000200000001#64, 0⟩) ∧
      (two 0x1F8 0x1FC).any fun t => t.readD 7 == ⟨0, 0x0000000200000001#64⟩ := by decide +kernel

theorem witness_HostWritesControlRegisters :
    (withAccess (.write 0x014 32 0x3FF)).host = [.access (.write 0x014 32 0x3FF)] ∧
      (withAccess (.write 0x014 32 0x3FF)).status ≠ .running ∧
      ((0x024#12).toNat % 4 = 0 ∧ 0x024 ≤ (0x024#12).toNat ∧ (0x0FC#12).toNat < 0x100) ∧
      ((0x3FC#12).toNat % 4 = 0 ∧ 0x200 ≤ (0x200#12).toNat ∧ (0x3FC#12).toNat < 0x400) := by decide

theorem witness_PowerOnResetState : ({ ready with host := [.powerOn] } : State).host = [.powerOn] := by decide

/-- A state with both memories written that stores its last word. -/
def storing : State := ((ready.imemWrite 255 0x01000000#32).dmemWrite 0 one).placeWord 0x110000FF#32

theorem witness_StepKeepsMemoriesCanonical :
    storing.wf = true ∧ leaves (step storing) fun t => t.dmemRead 255 == some 0 := by decide +kernel

theorem witness_StepKeepsFaultRecord :
    (nopAt 0).faultRecord ∧ (leaves (step (nopAt 0)) fun _ => true) ∧
      (runs 0x00000000#32 ready fun t => t.status == .faulted) := by
  refine ⟨⟨by decide +kernel, ?_⟩, by decide +kernel, by decide +kernel⟩
  exact ⟨rfl, rfl⟩

theorem witness_RomAndImemAreNotWritten :
    (leaves (step storing) fun _ => true) ∧ leaves (coreStep storing) fun _ => true := by decide +kernel

theorem witness_OnlyListedWritersWrite :
    (leaves (exec .nop ready) fun _ => true) ∧ writesWordRegister .nop = false ∧
      writesDDRegister .nop = false ∧ writesK .nop = false ∧ writesDmem .nop = false := by decide +kernel

theorem witness_OnlyFclrClearsFlags :
    (leaves (exec (.frd 0) { ready with fflags := 31 }) fun _ => true) ∧ Instr.frd 0 ≠ .fclr := by
  decide +kernel

theorem witness_NothingButFrdReadsFlags :
    (∀ d, Instr.ldw 0 0 ≠ .frd d) ∧ (∀ d, Instr.fclr ≠ .frd d) ∧ Instr.ldw 0 0 ≠ .fclr ∧
      (∃ t, exec (.ldw 0 0) (ready.dmemWrite 0 one) = .next t) ∧ (∃ t, exec .fclr ready = .next t) ∧
      ∃ e, exec (.ldw 0 0) ready = .fault e :=
  ⟨fun _ h => (nomatch h), fun _ h => (nomatch h), by decide, ⟨_, rfl⟩, ⟨_, rfl⟩, ⟨_, rfl⟩⟩

theorem witness_FaultingInstructionWritesNothing :
    ready.status = .running ∧ (leaves (exec (.std 0 255) ready) fun t => t.status == .faulted) ∧
      (leaves (exec (.rsclP 0 0) ready) fun t => t.status == .faulted) ∧
      leaves (exec (.ddec 0 0 0) ready) fun t => t.status == .faulted := by decide +kernel

theorem witness_LdwStwResults :
    (ready.dmemWrite 0 sNaN).dmemRead (dmemAddress 0) = some sNaN ∧
      (ready.dmemWrite 255 sNaN).dmemRead (dmemAddress 255) = some sNaN := by decide +kernel

theorem witness_LddStdResults :
    let s := (ready.dmemWrite 254 one).dmemWrite 255 tiny60
    (254#8).toNat % 2 = 0 ∧ (0#8).toNat % 2 = 0 ∧ s.dmemRead (dmemAddress 254) = some one ∧
      s.dmemRead (dmemAddress 254 + 1) = some tiny60 := by decide +kernel

theorem witness_OddDDAddressTakesMisaligned : (1#8).toNat % 2 = 1 ∧ (255#8).toNat % 2 = 1 := by decide

theorem witness_MoveResults : (0 : WReg) ≠ 15 := by decide

theorem witness_DsubIsDnegThenDadd : (7 : DReg) ≠ 0 := by decide

/-- −0, the least and the greatest admitted y_hi. -/
theorem witness_RredResult :
    [negZero, 0, romRredMax].all fun y => !isNaN y && decide (0 ≤ valUnits y) &&
      decide (valUnits y ≤ valUnits romRredMax) && (ready.writeD 0 ⟨y, 0⟩).readD 0 == ⟨y, 0⟩ := by
  decide +kernel

/-- The least negative number, the number after RRED_MAX, a NaN; subnormals, zeros, infinities and NaNs. -/
theorem witness_RangeFaults :
    isNaN ((ready.writeD 0 ⟨qNaN, 0⟩).readD 0).hi = true ∧ valUnits 0x8000000000000001#64 < 0 ∧
      valUnits romRredMax < valUnits (romRredMax + 1) ∧ expField 0x000FFFFFFFFFFFFF#64 = 0 ∧
      expField negZero = 0 ∧ expField posInf = 2047 ∧ expField qNaN = 2047 := by decide +kernel

theorem witness_RsclRoundsTheScaledValue :
    expField 0x0010000000000000#64 = 1 ∧ expField maxFinite = 2046 ∧
      expField ((ready.writeD 0 ⟨0x0010000000000000#64, 0⟩).readD 0).hi ≠ 0 ∧
      expField ((ready.writeD 0 ⟨maxFinite, 0⟩).readD 0).hi ≠ 2047 := by decide +kernel

/-- NaNs, a trivial operand, the least saturating and an infinite one, for each function. -/
theorem witness_ExpScreeningResults :
    isNaN qNaN = true ∧ isNaN sNaN = true ∧ isNaN negZero = false ∧
      valUnits (fmul negZero negZero).val < valUnits romTrivM ∧
      (let y := (fmul 0x403AA4499161CD48#64 0x403AA4499161CD48#64).val
       valUnits romOvfP < valUnits y) ∧
      valUnits romUnfM < valUnits (fmul posInf posInf).val ∧
      (ready.writeW 0 posInf).readW 0 = posInf := by decide +kernel

theorem witness_ScreenedSquareIsAdmittedByRred :
    isNaN one = false ∧ (flt (fmul one one).val (trivialBelow .P)).val = false ∧
      (flt (saturatedAbove .P) (fmul one one).val).val = false ∧
      (flt (fmul one one).val (trivialBelow .M)).val = false ∧
      (flt (saturatedAbove .M) (fmul one one).val).val = false := by decide +kernel

/-- x = 1.0 in W0. -/
def atOne : State := ready.writeW 0 one

theorem witness_ExpFullPathResults :
    isNaN (atOne.readW 0) = false ∧ valUnits romTrivP ≤ valUnits (twoSqr one).val.hi ∧
      valUnits romTrivM ≤ valUnits (twoSqr one).val.hi ∧ valUnits (twoSqr one).val.hi ≤ valUnits romOvfP ∧
      valUnits (twoSqr one).val.hi ≤ valUnits romUnfM := by decide +kernel

/-- The mantissa of exp(±1) is a normal number. -/
theorem witness_ExpFullPathResults_mantissa :
    let kr := (rred (twoSqr (atOne.readW 0)).val).val
    let mant := fun (v : Variant) (cs : Config.Poly) =>
      (ddMul (tcomb v (kr.1 % 32) (epoly cs v kr.2.hi).val).val (lcorr v kr.2.lo).val).val.hi
    rsclAdmits (mant .P atOne.polyP) = true ∧ rsclAdmits (mant .M atOne.polyM) = true := by decide +kernel

theorem witness_PipelineSequenceEqualsExp_P :
    atOne.status = .running ∧ atOne.fflags = 0 ∧ isNaN (atOne.readW 0) = false ∧
      ((execAll [.tsqr 0 0, .rred 1 0, .ddec 1 2 1, .epolyP 2 1, .tcombP 3 2, .lcorrP 4 2, .dmul 5 3 4,
        .rsclP 5 5] atOne).map (·.status)) = some .running := by decide +kernel

theorem witness_PipelineSequenceEqualsExp_M :
    ((execAll [.tsqr 0 0, .rred 1 0, .ddec 1 2 1, .epolyM 2 1, .tcombM 3 2, .lcorrM 4 2, .dmul 5 3 4,
        .rsclM 5 5] atOne).map (·.status)) = some .running := by decide +kernel

theorem witness_ExpIsEven : isNaN (atOne.readW 0) = false ∧ isNaN ((ready.writeW 0 posInf).readW 0) = false := by
  decide +kernel

theorem witness_EpolyVariantsMirror : isNaN one = false ∧ isNaN negInf = false := by decide +kernel

theorem witness_RredIndexIsExactAndBounded :
    rredAdmits ((ready.writeD 0 ⟨romRredMax, 0⟩).readD 0).hi = true ∧ rredAdmits negZero = true := by
  decide +kernel

/-- A tie (2^53 + 1 units), the last magnitude that stays finite and the first that overflows. -/
theorem witness_RoundingIsToNearestEven :
    (roundRN false (2 ^ 53 + 1) 1).val.getLsbD 0 = false ∧
      isInf (roundRN true (2 ^ 2098 - 2 ^ 2044 - 1) 1).val = false ∧
      isInf (roundRN true (2 ^ 2098 - 2 ^ 2044) 1).val = true := by decide +kernel

/-- An exact result, the last tiny inexact one, the first inexact one that is not tiny, and an overflow. -/
theorem witness_RoundingFlags :
    (magUnits (roundRN false 3 1).val * 1 = 3) ∧
      (4 * (2 ^ 54 - 2) < (2 ^ 54 - 1) * 4 ∧ isInf (roundRN false (2 ^ 54 - 2) 4).val = false ∧
        magUnits (roundRN false (2 ^ 54 - 2) 4).val * 4 ≠ 2 ^ 54 - 2) ∧
      ((2 ^ 54 - 1) * 4 ≤ 4 * (2 ^ 54 - 1) ∧ isInf (roundRN false (2 ^ 54 - 1) 4).val = false ∧
        magUnits (roundRN false (2 ^ 54 - 1) 4).val * 4 ≠ 2 ^ 54 - 1) ∧
      isInf (roundRN false (2 ^ 2098) 1).val = true := by decide +kernel

theorem witness_RepresentableValuesRoundToThemselves :
    [(1 : Word), maxFinite, 0x8000000000000001#64].all fun x => !isNaN x && !isInf x && !isZero x := by
  decide +kernel

/-- Operands for the clauses in turn: sums and products of finite numbers, exact zeros, zero operands, infinities. -/
theorem witness_PrimitivesOnNumbers :
    ([one, maxFinite, 1, 0, negZero, posInf].all fun x => !isNaN x) ∧
      ([one, maxFinite, 1, 0, negZero].all fun x => !isInf x) ∧
      valUnits one + valUnits maxFinite ≠ 0 ∧ valUnits one - valUnits (1 : Word) ≠ 0 ∧
      valUnits one + valUnits (fneg one) = 0 ∧ (isZero negZero = true ∧ negZero = negZero) ∧
      valUnits one * valUnits one ≠ 0 ∧ valUnits one * valUnits negZero = 0 ∧ isZero posInf = false ∧
      valUnits one * valUnits one + valUnits one * 2 ^ 1074 ≠ 0 ∧
      valUnits one * valUnits one + valUnits (fneg one) * 2 ^ 1074 = 0 ∧ valUnits one - valUnits one = 0 ∧
      (valUnits negZero - valUnits (0 : Word) = 0 ∧ (0 : Word) = fneg negZero) ∧ isInf posInf = true ∧
      isInf negInf = true ∧ signBit posInf = signBit posInf ∧ signBit posInf ≠ signBit negInf ∧
      isZero one = false ∧ isZero negInf = false ∧ signBit posInf = (signBit posInf != signBit one) := by
  decide +kernel

theorem witness_NanRule :
    isNaN qNaN = true ∧ isNaN sNaN = true ∧ isSNaN sNaN = true ∧ isSNaN qNaN = false ∧ isNaN one = false ∧
      isInf posInf = true ∧ isInf negInf = true ∧ signBit posInf ≠ signBit negInf ∧ isZero negZero = true ∧
      isNaN posInf = false ∧ isZero posInf = false ∧
      signBit negInf ≠ (signBit posInf != signBit one) := by decide +kernel

theorem witness_QuietComparisons :
    isNaN qNaN = true ∧ isNaN one = false ∧ isInf one = false ∧ isInf maxFinite = false ∧
      isNaN posInf = false ∧ isNaN negInf = false := by decide +kernel

/-- Finite operands whose exponent fields add up to exactly 1077, and the same with a subnormal. -/
theorem witness_TwoProdIsExact :
    let a : Word := 0x21AFFFFFFFFFFFFF#64
    let b : Word := 0x21BFFFFFFFFFFFFF#64
    let c : Word := 0x4350000000000001#64
    (!isNaN a && !isInf a && !isNaN b && !isInf b) ∧ expField a + expField b = 1077 ∧
      isInf (fmul a b).val = false ∧ expField 1 + expField c = 1077 ∧ isInf (fmul 1 c).val = false := by
  decide +kernel

end Sys2Proof.Tests
end

section
/-! PROOFS. The fields of a binary64 word as parts of one number, its 63 magnitude bits (00_scope.md R13). -/

namespace Sys2Proof.Machine

/-! ### The magnitude bits of a word -/

/-- The 63 bits below the sign, as a number. -/
def magBits (a : Word) : Nat := a.toNat % 2 ^ 63

theorem magBits_lt (a : Word) : magBits a < 2 ^ 63 := Nat.mod_lt _ (by decide)

theorem signBit_eq (a : Word) : signBit a = decide (2 ^ 63 ≤ a.toNat) := by
  have ha := a.isLt
  rw [signBit, BitVec.getLsbD, Nat.testBit_eq_decide_div_mod_eq]
  congr 1
  apply propext
  omega

theorem toNat_eq_signBit_magBits (a : Word) :
    a.toNat = (if signBit a then 2 ^ 63 else 0) + magBits a := by
  have ha := a.isLt
  simp only [signBit_eq, magBits, decide_eq_true_eq]
  split <;> omega

theorem expField_eq (a : Word) : expField a = magBits a / 2 ^ 52 := by
  have ha := a.isLt
  simp only [expField, magBits, BitVec.extractLsb'_toNat, Nat.shiftRight_eq_div_pow]
  omega

theorem fracField_eq (a : Word) : fracField a = magBits a % 2 ^ 52 := by
  simp only [fracField, magBits, BitVec.extractLsb'_toNat, Nat.shiftRight_eq_div_pow]
  omega

/-- A word is its sign and its magnitude bits. -/
theorem word_ext {a b : Word} (hs : signBit a = signBit b) (hm : magBits a = magBits b) : a = b := by
  apply BitVec.eq_of_toNat_eq
  rw [toNat_eq_signBit_magBits a, toNat_eq_signBit_magBits b, hs, hm]

theorem toNat_signed (neg : Bool) {mag : Nat} (h : mag < 2 ^ 63) :
    (signed neg mag).toNat = (if neg then 2 ^ 63 else 0) + mag := by
  have hor := Nat.two_pow_add_eq_or_of_lt (i := 63) h 1
  have hmag : (BitVec.ofNat 64 mag).toNat = mag := Nat.mod_eq_of_lt (by omega)
  rw [signed, BitVec.toNat_or, hmag]
  cases neg
  · simp
  · simpa using hor.symm

theorem signBit_signed (neg : Bool) {mag : Nat} (h : mag < 2 ^ 63) : signBit (signed neg mag) = neg := by
  rw [signBit_eq, toNat_signed neg h]
  cases neg
  · simpa using h
  · simp

theorem magBits_signed (neg : Bool) {mag : Nat} (h : mag < 2 ^ 63) : magBits (signed neg mag) = mag := by
  rw [magBits, toNat_signed neg h]
  cases neg
  · simpa using Nat.mod_eq_of_lt h
  · simpa using Nat.mod_eq_of_lt h

theorem signed_signBit_magBits (a : Word) : signed (signBit a) (magBits a) = a :=
  word_ext (signBit_signed _ (magBits_lt a)) (magBits_signed _ (magBits_lt a))

/-! ### The classes of R13 -/

theorem isInf_iff (a : Word) : isInf a = true ↔ magBits a = 2047 * 2 ^ 52 := by
  simp only [isInf, expField_eq, fracField_eq, Bool.and_eq_true, beq_iff_eq]
  omega

theorem isZero_iff (a : Word) : isZero a = true ↔ magBits a = 0 := by
  simp only [isZero, expField_eq, fracField_eq, Bool.and_eq_true, beq_iff_eq]
  omega

theorem isNaN_iff (a : Word) : isNaN a = true ↔ 2047 * 2 ^ 52 < magBits a := by
  have ha := magBits_lt a
  simp only [isNaN, expField_eq, fracField_eq, Bool.and_eq_true, beq_iff_eq, bne_iff_ne]
  omega

theorem magBits_le_of_not_isNaN {a : Word} (h : isNaN a = false) : magBits a ≤ 2047 * 2 ^ 52 := by
  rw [← Bool.not_eq_true, isNaN_iff] at h
  omega

/-- The finite words are those whose magnitude bits are below ∞'s. -/
theorem magBits_lt_of_finite {a : Word} (hn : isNaN a = false) (hi : isInf a = false) :
    magBits a < 2047 * 2 ^ 52 := by
  have hle := magBits_le_of_not_isNaN hn
  rw [← Bool.not_eq_true, isInf_iff] at hi
  omega

theorem isNaN_of_isInf {a : Word} (h : isInf a = true) : isNaN a = false := by
  rw [isInf_iff] at h
  rw [← Bool.not_eq_true, isNaN_iff]
  omega

theorem isZero_of_isInf {a : Word} (h : isInf a = true) : isZero a = false := by
  rw [isInf_iff] at h
  rw [← Bool.not_eq_true, isZero_iff]
  omega

theorem isNaN_of_isZero {a : Word} (h : isZero a = true) : isNaN a = false := by
  rw [isZero_iff] at h
  rw [← Bool.not_eq_true, isNaN_iff]
  omega

theorem isInf_of_isZero {a : Word} (h : isZero a = true) : isInf a = false := by
  rw [isZero_iff] at h
  rw [← Bool.not_eq_true, isInf_iff]
  omega

theorem isInf_of_isNaN {a : Word} (h : isNaN a = true) : isInf a = false := by
  rw [isNaN_iff] at h
  rw [← Bool.not_eq_true, isInf_iff]
  omega

theorem isZero_of_isNaN {a : Word} (h : isNaN a = true) : isZero a = false := by
  rw [isNaN_iff] at h
  rw [← Bool.not_eq_true, isZero_iff]
  omega

/-! ### FNEG -/

@[simp] theorem signBit_fneg (a : Word) : signBit (fneg a) = !signBit a := by
  simp only [signBit, fneg, BitVec.getLsbD_xor]
  rw [show (0x8000000000000000#64).getLsbD 63 = true by decide, Bool.xor_true]

@[simp] theorem magBits_fneg (a : Word) : magBits (fneg a) = magBits a := by
  simp only [magBits, fneg, BitVec.toNat_xor, BitVec.toNat_ofNat, Nat.xor_mod_two_pow]
  simp

@[simp] theorem fneg_fneg (a : Word) : fneg (fneg a) = a := word_ext (by simp) (by simp)

@[simp] theorem isNaN_fneg (a : Word) : isNaN (fneg a) = isNaN a := by
  rw [Bool.eq_iff_iff, isNaN_iff, isNaN_iff, magBits_fneg]

@[simp] theorem isInf_fneg (a : Word) : isInf (fneg a) = isInf a := by
  rw [Bool.eq_iff_iff, isInf_iff, isInf_iff, magBits_fneg]

@[simp] theorem isZero_fneg (a : Word) : isZero (fneg a) = isZero a := by
  rw [Bool.eq_iff_iff, isZero_iff, isZero_iff, magBits_fneg]

/-! ### Zeros and infinities by their sign -/

theorem zeroOf_eq (neg : Bool) : zeroOf neg = if neg then 0x8000000000000000#64 else 0 := by
  cases neg <;> rfl

theorem infOf_eq (neg : Bool) :
    infOf neg = if neg then 0xFFF0000000000000#64 else 0x7FF0000000000000#64 := by
  cases neg <;> rfl

/-- A zero is the zero of its sign. -/
theorem zeroOf_signBit {a : Word} (h : isZero a = true) : zeroOf (signBit a) = a := by
  rw [zeroOf, ← (isZero_iff a).mp h, signed_signBit_magBits]

/-- An infinity is the infinity of its sign. -/
theorem infOf_signBit {a : Word} (h : isInf a = true) : infOf (signBit a) = a := by
  have hm : (0x7FF0000000000000 : Nat) = magBits a := ((isInf_iff a).mp h).symm
  rw [infOf, hm, signed_signBit_magBits]

/-! ### The value of magnitude bits, in units of 2^−1074 -/

/-- The magnitude that magnitude bits stand for (R13). -/
def unitsOf (k : Nat) : Nat :=
  if k / 2 ^ 52 = 0 then k % 2 ^ 52 else (2 ^ 52 + k % 2 ^ 52) * 2 ^ (k / 2 ^ 52 - 1)

theorem magUnits_eq (a : Word) : magUnits a = unitsOf (magBits a) := by
  rw [magUnits, unitsOf, expField_eq, fracField_eq]

/-- The magnitude bits e·2^52 + m stand for m·2^e, wherever m has its 53 bits or e is the least exponent;
m = 2^53 is the carry into the next exponent. -/
theorem unitsOf_pattern {e m : Nat} (hm : m ≤ 2 ^ 53) (hnorm : e = 0 ∨ 2 ^ 52 ≤ m) :
    unitsOf (e * 2 ^ 52 + m) = m * 2 ^ e := by
  obtain hsub | hnormal | hcarry : m < 2 ^ 52 ∨ (2 ^ 52 ≤ m ∧ m < 2 ^ 53) ∨ m = 2 ^ 53 := by omega
  · obtain rfl : e = 0 := by omega
    rw [unitsOf, if_pos (by omega)]
    omega
  · have hexp : (e * 2 ^ 52 + m) / 2 ^ 52 = e + 1 := by omega
    have hfrac : 2 ^ 52 + (e * 2 ^ 52 + m) % 2 ^ 52 = m := by omega
    rw [unitsOf, hexp, hfrac, if_neg e.succ_ne_zero, Nat.add_sub_cancel]
  · have hexp : (e * 2 ^ 52 + m) / 2 ^ 52 = e + 1 + 1 := by omega
    have hfrac : 2 ^ 52 + (e * 2 ^ 52 + m) % 2 ^ 52 = 2 ^ 52 := by omega
    rw [unitsOf, hexp, hfrac, if_neg (e + 1).succ_ne_zero, Nat.add_sub_cancel, hcarry, ← pow_add, ← pow_add]
    congr 1
    omega

theorem exists_pattern (k : Nat) :
    ∃ e m, k = e * 2 ^ 52 + m ∧ m < 2 ^ 53 ∧ (e = 0 ∨ 2 ^ 52 ≤ m) :=
  ⟨k / 2 ^ 52 - 1, k - (k / 2 ^ 52 - 1) * 2 ^ 52, by omega, by omega, by omega⟩

theorem unitsOf_lt_succ (k : Nat) : unitsOf k < unitsOf (k + 1) := by
  obtain ⟨e, m, rfl, hm, hnorm⟩ := exists_pattern k
  rw [add_assoc, unitsOf_pattern hm.le hnorm, unitsOf_pattern (by omega) (by omega)]
  exact Nat.mul_lt_mul_of_pos_right (Nat.lt_succ_self m) (by positivity)

theorem unitsOf_strictMono : StrictMono unitsOf := strictMono_nat_of_lt_succ unitsOf_lt_succ

theorem unitsOf_zero : unitsOf 0 = 0 := by decide

theorem unitsOf_eq_zero_iff {k : Nat} : unitsOf k = 0 ↔ k = 0 := by
  have h := unitsOf_strictMono.injective.eq_iff (a := k) (b := 0)
  rwa [unitsOf_zero] at h

/-- The least magnitude bits of an exponent stand for a power of two. -/
theorem unitsOf_binade (n : Nat) : unitsOf ((n + 1) * 2 ^ 52) = 2 ^ 52 * 2 ^ n := by
  have h := unitsOf_pattern (e := n) (m := 2 ^ 52) (by decide) (.inr le_rfl)
  rwa [← Nat.succ_mul] at h

/-- The magnitude bits next below a power of two. -/
theorem unitsOf_binade_pred (n : Nat) :
    unitsOf ((n + 2) * 2 ^ 52 - 1) = (2 ^ 53 - 1) * 2 ^ n := by
  have h := unitsOf_pattern (e := n) (m := 2 ^ 53 - 1) (by decide) (.inr (by decide))
  rwa [show n * 2 ^ 52 + (2 ^ 53 - 1) = (n + 2) * 2 ^ 52 - 1 by omega] at h

/-! ### Values of words -/

@[simp] theorem magUnits_fneg (a : Word) : magUnits (fneg a) = magUnits a := by
  rw [magUnits_eq, magUnits_eq, magBits_fneg]

@[simp] theorem valUnits_fneg (a : Word) : valUnits (fneg a) = -valUnits a := by
  cases h : signBit a <;> simp [valUnits, h]

theorem magUnits_eq_zero_iff (a : Word) : magUnits a = 0 ↔ isZero a = true := by
  rw [magUnits_eq, unitsOf_eq_zero_iff, isZero_iff]

theorem valUnits_eq_zero_iff (a : Word) : valUnits a = 0 ↔ isZero a = true := by
  rw [← magUnits_eq_zero_iff, valUnits]
  split <;> simp

/-- The magnitude identifies the magnitude bits. -/
theorem magUnits_inj {a b : Word} : magUnits a = magUnits b ↔ magBits a = magBits b := by
  rw [magUnits_eq, magUnits_eq, unitsOf_strictMono.injective.eq_iff]

/-- The value identifies the word, but for the two zeros. -/
theorem valUnits_inj {a b : Word} :
    valUnits a = valUnits b ↔ a = b ∨ (isZero a = true ∧ isZero b = true) := by
  constructor
  · intro h
    by_cases hs : signBit a = signBit b
    · have hm : magUnits a = magUnits b := by
        simp only [valUnits, hs] at h
        split at h <;> omega
      exact .inl (word_ext hs (magUnits_inj.mp hm))
    · have hm : magUnits a = 0 ∧ magUnits b = 0 := by
        rw [valUnits, valUnits, Bool.eq_not.mpr hs] at h
        cases hb : signBit b
        · simp only [hb, Bool.not_false, if_true, Bool.false_eq_true, if_false] at h
          omega
        · simp only [hb, Bool.not_true, if_true, Bool.false_eq_true, if_false] at h
          omega
      exact .inr ⟨(magUnits_eq_zero_iff a).mp hm.1, (magUnits_eq_zero_iff b).mp hm.2⟩
  · rintro (rfl | ⟨ha, hb⟩)
    · rfl
    · rw [(valUnits_eq_zero_iff a).mpr ha, (valUnits_eq_zero_iff b).mpr hb]

end Sys2Proof.Machine
end

section
/-! PROOFS. RN (00_scope.md R14). The magnitude bits count the magnitudes of binary64 in rising order, and RN
gives the number whose magnitude is nearest: `RoundsTo` says so by the two midpoints beside it, and what
R14 says of the result, of overflow and of tininess is read off the midpoints. -/

namespace Sys2Proof.Machine

/-! ### Midpoints -/

/-- Twice the midpoint of the magnitudes of k and k + 1. -/
def midSum (k : Nat) : Nat := unitsOf k + unitsOf (k + 1)

theorem midSum_strictMono : StrictMono midSum := fun _ _ h =>
  Nat.add_lt_add (unitsOf_strictMono h) (unitsOf_strictMono (Nat.succ_lt_succ h))

theorem midSum_lt_of_lt {k j : Nat} (h : k < j) : midSum k < 2 * unitsOf j := by
  have hk := unitsOf_strictMono h
  have hk1 := unitsOf_strictMono.monotone (show k + 1 ≤ j from h)
  rw [midSum]
  omega

theorem lt_midSum_of_le {j k : Nat} (h : j ≤ k) : 2 * unitsOf j < midSum k := by
  have hk := unitsOf_strictMono.monotone h
  have hk1 := unitsOf_lt_succ k
  rw [midSum]
  omega

/-- num/den lies between the midpoints beside the magnitude bits k, on one of them only for an even k. -/
structure RoundsTo (num den k : Nat) : Prop where
  below : ∀ j, k = j + 1 → midSum j * den ≤ 2 * num
  above : 2 * num ≤ midSum k * den
  even_of_tie_below : ∀ j, k = j + 1 → midSum j * den = 2 * num → k % 2 = 0
  even_of_tie_above : 2 * num = midSum k * den → k % 2 = 0

/-- Rounding to nearest goes up to an even number exactly from the midpoint on. -/
theorem RoundsTo.succ_le_iff {num den k j : Nat} (h : RoundsTo num den k) (hden : 0 < den)
    (hodd : j % 2 = 1) : j + 1 ≤ k ↔ midSum j * den ≤ 2 * num := by
  constructor
  · intro hle
    obtain ⟨i, rfl⟩ : ∃ i, k = i + 1 := ⟨k - 1, by omega⟩
    calc midSum j * den ≤ midSum i * den :=
          Nat.mul_le_mul_right den (midSum_strictMono.monotone (by omega))
      _ ≤ 2 * num := h.below i rfl
  · intro hmid
    by_contra hlt
    have hkj : midSum k * den ≤ midSum j * den :=
      Nat.mul_le_mul_right den (midSum_strictMono.monotone (by omega))
    have habove := h.above
    have heven := h.even_of_tie_above (by omega)
    obtain rfl : k = j :=
      midSum_strictMono.injective (Nat.eq_of_mul_eq_mul_right hden (by omega))
    omega

/-- A representable magnitude rounds to itself. -/
theorem RoundsTo.eq_of_exact {num den k j : Nat} (h : RoundsTo num den k) (hden : 0 < den)
    (hnum : num = unitsOf j * den) : k = j := by
  have hscale : 2 * num = 2 * unitsOf j * den := by rw [hnum, mul_assoc]
  obtain hlt | rfl | hgt := lt_trichotomy k j
  · have hmid := Nat.mul_lt_mul_of_pos_right (midSum_lt_of_lt hlt) hden
    have habove := h.above
    omega
  · rfl
  · obtain ⟨i, rfl⟩ : ∃ i, k = i + 1 := ⟨k - 1, by omega⟩
    have hmid := Nat.mul_lt_mul_of_pos_right (lt_midSum_of_le (Nat.le_of_lt_succ hgt)) hden
    have hbelow := h.below i rfl
    omega

/-- With the midpoint of i and k at most n, the distance from n to k is no more than to anything up to i. -/
theorem dist_le_of_midpoint_le {a i k n : Nat} (hai : a ≤ i) (hik : i < k) (hmid : i + k ≤ 2 * n) :
    |(k : Int) - n| ≤ |(a : Int) - n| ∧ (|(k : Int) - n| = |(a : Int) - n| → i + k = 2 * n) := by
  simp only [Int.abs_eq_natAbs]
  omega

/-- With the midpoint of k and i at least n, the distance from n to k is no more than to anything from i on. -/
theorem dist_le_of_le_midpoint {a i k n : Nat} (hia : i ≤ a) (hki : k < i) (hmid : 2 * n ≤ k + i) :
    |(k : Int) - n| ≤ |(a : Int) - n| ∧ (|(k : Int) - n| = |(a : Int) - n| → 2 * n = k + i) := by
  simp only [Int.abs_eq_natAbs]
  omega

/-- No other magnitude is nearer, and only an even one shares the distance with another. -/
theorem RoundsTo.nearest {num den k : Nat} (h : RoundsTo num den k) (hden : 0 < den) (j : Nat) :
    |(unitsOf k * den : Int) - num| ≤ |(unitsOf j * den : Int) - num| ∧
      (|(unitsOf k * den : Int) - num| = |(unitsOf j * den : Int) - num| → j ≠ k → k % 2 = 0) := by
  have hmono : StrictMono fun i => unitsOf i * den := fun i i' hlt =>
    Nat.mul_lt_mul_of_pos_right (unitsOf_strictMono hlt) hden
  have hmid : ∀ i, midSum i * den = unitsOf i * den + unitsOf (i + 1) * den := fun i => add_mul _ _ _
  simp only [← Nat.cast_mul]
  obtain hlt | rfl | hgt := lt_trichotomy j k
  · obtain ⟨i, rfl⟩ : ∃ i, k = i + 1 := ⟨k - 1, by omega⟩
    obtain ⟨hle, heq⟩ := dist_le_of_midpoint_le (hmono.monotone (Nat.le_of_lt_succ hlt))
      (hmono i.lt_succ_self) (hmid i ▸ h.below i rfl)
    exact ⟨hle, fun e _ => h.even_of_tie_below i rfl ((hmid i).trans (heq e))⟩
  · exact ⟨le_rfl, fun _ hne => absurd rfl hne⟩
  · obtain ⟨hle, heq⟩ := dist_le_of_le_midpoint (hmono.monotone (Nat.succ_le_of_lt hgt))
      (hmono k.lt_succ_self) (hmid k ▸ h.above)
    exact ⟨hle, fun e _ => h.even_of_tie_above ((heq e).trans (hmid k).symm)⟩

/-! ### The rounding steps of the model -/

/-- `nearestEven` gives the quotient, or the next number, by the midpoint between them. -/
theorem nearestEven_cases (num den : Nat) :
    (nearestEven num den = num / den ∧ 2 * num ≤ (2 * (num / den) + 1) * den ∧
      (2 * num = (2 * (num / den) + 1) * den → num / den % 2 = 0)) ∨
    (nearestEven num den = num / den + 1 ∧ (2 * (num / den) + 1) * den ≤ 2 * num ∧
      ((2 * (num / den) + 1) * den = 2 * num → (num / den + 1) % 2 = 0)) := by
  have hdiv := Nat.div_add_mod' num den
  have hmul : (2 * (num / den) + 1) * den = 2 * (num / den * den) + den := by ring
  rw [hmul]
  simp only [nearestEven]
  split
  · left; omega
  · split
    · right; omega
    · obtain he | ho := Nat.mod_two_eq_zero_or_one (num / den)
      · left; omega
      · right; omega

/-- `round53` scales num/den to a quotient of 53 bits, or of fewer under the least exponent. -/
theorem round53_cases (num den : Nat) :
    ∃ e, round53 num den = (nearestEven num (den * 2 ^ e), e) ∧ num / (den * 2 ^ e) < 2 ^ 53 ∧
      (e = 0 ∨ 2 ^ 52 ≤ num / (den * 2 ^ e)) := by
  refine ⟨Nat.log2 (num / den) - 52, rfl, ?_, ?_⟩
  · rw [← Nat.div_div_eq_div_mul, Nat.div_lt_iff_lt_mul (by positivity), ← pow_add]
    calc num / den < 2 ^ (Nat.log2 (num / den) + 1) := Nat.lt_log2_self
      _ ≤ 2 ^ (53 + (Nat.log2 (num / den) - 52)) := Nat.pow_le_pow_right (by decide) (by omega)
  · by_cases hlog : Nat.log2 (num / den) ≤ 52
    · left; omega
    · right
      have hne : num / den ≠ 0 := by
        intro h0
        simp [h0] at hlog
      rw [← Nat.div_div_eq_div_mul, Nat.le_div_iff_mul_le (by positivity), ← pow_add,
        show 52 + (Nat.log2 (num / den) - 52) = Nat.log2 (num / den) by omega]
      exact Nat.log2_self_le hne

theorem pattern_mod_two (e m : Nat) : (e * 2 ^ 52 + m) % 2 = m % 2 := by omega

/-- `round53` rounds to nearest, ties to even, over all magnitude bits, with no bound on the exponent: the
quotient Q and the next number are the significands of the two magnitudes around num/den. -/
theorem round53_roundsTo {num den m e : Nat} (hden : 0 < den) (h : round53 num den = (m, e)) :
    RoundsTo num den (e * 2 ^ 52 + m) ∧ unitsOf (e * 2 ^ 52 + m) = m * 2 ^ e := by
  obtain ⟨e', heq, hlt, hnorm⟩ := round53_cases num den
  obtain ⟨rfl, rfl⟩ : nearestEven num (den * 2 ^ e') = m ∧ e' = e := by simpa [heq] using h
  have hd : 0 < den * 2 ^ e' := by positivity
  have hfloor := Nat.div_mul_le_self num (den * 2 ^ e')
  have hceil := Nat.lt_mul_div_succ num hd
  have hround := nearestEven_cases num (den * 2 ^ e')
  generalize num / (den * 2 ^ e') = Q at hlt hnorm hfloor hceil hround
  have hK : unitsOf (e' * 2 ^ 52 + Q) = Q * 2 ^ e' := unitsOf_pattern hlt.le hnorm
  have hK1 : unitsOf (e' * 2 ^ 52 + (Q + 1)) = (Q + 1) * 2 ^ e' := unitsOf_pattern hlt (by omega)
  have hmid : midSum (e' * 2 ^ 52 + Q) * den = (2 * Q + 1) * (den * 2 ^ e') := by
    rw [midSum, hK, add_assoc, hK1]; ring
  obtain ⟨hm, hle, htie⟩ | ⟨hm, hle, htie⟩ := hround <;> rw [hm]
  · have hbelow : ∀ j, e' * 2 ^ 52 + Q = j + 1 → midSum j * den < 2 * num := fun j hj =>
      calc midSum j * den < 2 * unitsOf (e' * 2 ^ 52 + Q) * den :=
            Nat.mul_lt_mul_of_pos_right (midSum_lt_of_lt (by omega)) hden
        _ = 2 * (Q * (den * 2 ^ e')) := by rw [hK]; ring
        _ ≤ 2 * num := Nat.mul_le_mul_left 2 hfloor
    refine ⟨⟨fun j hj => (hbelow j hj).le, hmid ▸ hle, fun j hj h => absurd h (hbelow j hj).ne,
      fun h => ?_⟩, hK⟩
    exact (pattern_mod_two e' Q).trans (htie (h.trans hmid))
  · have habove : 2 * num < midSum (e' * 2 ^ 52 + (Q + 1)) * den :=
      calc 2 * num < 2 * (den * 2 ^ e' * (Q + 1)) := Nat.mul_lt_mul_of_pos_left hceil two_pos
        _ = 2 * unitsOf (e' * 2 ^ 52 + (Q + 1)) * den := by rw [hK1]; ring
        _ < midSum (e' * 2 ^ 52 + (Q + 1)) * den :=
            Nat.mul_lt_mul_of_pos_right (lt_midSum_of_le le_rfl) hden
    refine ⟨⟨fun j hj => ?_, habove.le, fun j hj h => ?_, fun h => absurd h habove.ne⟩, hK1⟩
    · obtain rfl : e' * 2 ^ 52 + Q = j := Nat.succ_injective hj
      exact hmid ▸ hle
    · obtain rfl : e' * 2 ^ 52 + Q = j := Nat.succ_injective hj
      exact (pattern_mod_two e' (Q + 1)).trans (htie (hmid.symm.trans h))

/-! ### Overflow and tininess as midpoints -/

/-- The midpoint below a power of two, in halves of the spacing there. -/
theorem midSum_binade_pred (n : Nat) : midSum ((n + 2) * 2 ^ 52 - 1) = (2 ^ 54 - 1) * 2 ^ n := by
  rw [midSum, unitsOf_binade_pred, show (n + 2) * 2 ^ 52 - 1 + 1 = (n + 1 + 1) * 2 ^ 52 by omega,
    unitsOf_binade, pow_succ]
  omega

/-- A magnitude rounds below a power of two exactly if it is below it by more than a quarter of its spacing. -/
theorem RoundsTo.binade_le_iff {num den k : Nat} (h : RoundsTo num den k) (hden : 0 < den) (n : Nat) :
    (n + 2) * 2 ^ 52 ≤ k ↔ (2 ^ 54 - 1) * 2 ^ n * den ≤ 2 * num := by
  have hiff := h.succ_le_iff (j := (n + 2) * 2 ^ 52 - 1) hden (by omega)
  rwa [midSum_binade_pred, show (n + 2) * 2 ^ 52 - 1 + 1 = (n + 2) * 2 ^ 52 by omega] at hiff

/-- Tininess after rounding (R14): below 2^−1022 less a quarter of 2^−1074. -/
theorem isTiny_iff {num den : Nat} (hden : 0 < den) :
    isTiny num den = true ↔ 4 * num < (2 ^ 54 - 1) * den := by
  obtain ⟨n, hn⟩ : ∃ n, Nat.log2 den + 53 = n + 1 := ⟨_, rfl⟩
  obtain ⟨m, e, hme⟩ : ∃ m e, round53 (num * 2 ^ (n + 1)) den = (m, e) := ⟨_, _, rfl⟩
  obtain ⟨hround, hunits⟩ := round53_roundsTo hden hme
  have hbinade := hround.binade_le_iff hden n
  simp only [isTiny, hn, hme, decide_eq_true_eq]
  rw [← hunits, ← unitsOf_binade, unitsOf_strictMono.lt_iff_lt, ← not_le, hbinade, not_le]
  rw [show 2 * (num * 2 ^ (n + 1)) = 4 * num * 2 ^ n by ring, mul_right_comm (2 ^ 54 - 1),
    Nat.mul_lt_mul_right (by positivity)]

/-! ### RN -/

/-- What RN answers: the magnitude bits k that num/den rounds to, or ∞ from those of ∞ on, with the flags of
R14. -/
theorem roundRN_cases (neg : Bool) {num den : Nat} (hden : 0 < den) :
    ∃ k, RoundsTo num den k ∧
      ((2047 * 2 ^ 52 ≤ k ∧ roundRN neg num den = ⟨infOf neg, flagOF ||| flagNX⟩) ∨
       (k < 2047 * 2 ^ 52 ∧ unitsOf k * den = num ∧ roundRN neg num den = ⟨signed neg k, 0⟩) ∨
       (k < 2047 * 2 ^ 52 ∧ unitsOf k * den ≠ num ∧
        roundRN neg num den = ⟨signed neg k, flagIf (isTiny num den) flagUF ||| flagNX⟩)) := by
  obtain ⟨m, e, hme⟩ : ∃ m e, round53 num den = (m, e) := ⟨_, _, rfl⟩
  obtain ⟨hround, hunits⟩ := round53_roundsTo hden hme
  refine ⟨e * 2 ^ 52 + m, hround, ?_⟩
  simp only [roundRN, hme, hunits]
  split
  · next hinf => exact .inl ⟨hinf, rfl⟩
  · next hfin =>
    split
    · next hexact => exact .inr (.inl ⟨Nat.lt_of_not_le hfin, hexact, rfl⟩)
    · next hinexact => exact .inr (.inr ⟨Nat.lt_of_not_le hfin, hinexact, rfl⟩)

/-- Overflow begins half an ulp above the largest finite magnitude (R14). -/
theorem RoundsTo.overflow_iff {num den k : Nat} (h : RoundsTo num den k) (hden : 0 < den) :
    2047 * 2 ^ 52 ≤ k ↔ (2 ^ 2098 - 2 ^ 2044) * den ≤ num := by
  have hbound : (2 : Nat) ^ 2098 - 2 ^ 2044 = (2 ^ 54 - 1) * 2 ^ 2044 := by
    rw [Nat.sub_mul, one_mul, ← pow_add]
  have hiff := h.binade_le_iff hden 2045
  rw [hbound, hiff, pow_succ 2 2044, ← mul_assoc, mul_right_comm _ 2 den, mul_comm _ 2]
  exact Nat.mul_le_mul_left_iff two_pos

theorem isInf_infOf (neg : Bool) : isInf (infOf neg) = true := by cases neg <;> decide

theorem isNaN_infOf (neg : Bool) : isNaN (infOf neg) = false := isNaN_of_isInf (isInf_infOf neg)

theorem signBit_infOf (neg : Bool) : signBit (infOf neg) = neg := signBit_signed neg (by decide)

section
variable {k : Nat} (neg : Bool) (hk : k < 2047 * 2 ^ 52)
include hk

theorem magBits_signed_of_finite : magBits (signed neg k) = k := magBits_signed neg (by omega)

theorem isNaN_signed_of_finite : isNaN (signed neg k) = false := by
  rw [← Bool.not_eq_true, isNaN_iff, magBits_signed_of_finite neg hk]
  omega

theorem isInf_signed_of_finite : isInf (signed neg k) = false := by
  rw [← Bool.not_eq_true, isInf_iff, magBits_signed_of_finite neg hk]
  omega

theorem magUnits_signed_of_finite : magUnits (signed neg k) = unitsOf k := by
  rw [magUnits_eq, magBits_signed_of_finite neg hk]

theorem getLsbD_zero_signed_of_finite (heven : k % 2 = 0) : (signed neg k).getLsbD 0 = false := by
  rw [BitVec.getLsbD, toNat_signed neg (by omega), Nat.testBit_zero, decide_eq_false_iff_not]
  split <;> omega

end

/-- RN's word: ∞ where num/den is at least half an ulp above the largest finite magnitude, otherwise the finite
word of the magnitude bits it rounds to. -/
theorem roundRN_val_cases (neg : Bool) {num den : Nat} (hden : 0 < den) :
    ((2 ^ 2098 - 2 ^ 2044) * den ≤ num ∧ (roundRN neg num den).val = infOf neg) ∨
    (num < (2 ^ 2098 - 2 ^ 2044) * den ∧
      ∃ k, RoundsTo num den k ∧ k < 2047 * 2 ^ 52 ∧ (roundRN neg num den).val = signed neg k) := by
  obtain ⟨k, hround, ⟨hk, h⟩ | ⟨hk, -, h⟩ | ⟨hk, -, h⟩⟩ := roundRN_cases neg (num := num) hden <;> rw [h]
  · exact .inl ⟨(hround.overflow_iff hden).mp hk, rfl⟩
  all_goals
    refine .inr ⟨?_, k, hround, hk, rfl⟩
    rwa [← not_le, ← hround.overflow_iff hden, not_le]

/-! ### The statements about RN -/

/-- Settles O52: RN's word is read off the midpoints beside the magnitude bits it chose. -/
theorem roundingIsToNearestEven : Obligations.RoundingIsToNearestEven := by
  intro neg num den _ hden
  obtain ⟨hover, h⟩ | ⟨hfin, k, hround, hk, h⟩ := roundRN_val_cases neg (num := num) hden <;> rw [h]
  · exact ⟨signBit_infOf neg, isNaN_infOf neg, iff_of_true (isInf_infOf neg) hover,
      fun hi => absurd (isInf_infOf neg) (by simp [hi])⟩
  · have hinf := isInf_signed_of_finite neg hk
    refine ⟨signBit_signed neg (by omega), isNaN_signed_of_finite neg hk,
      iff_of_false (by simp [hinf]) hfin.not_ge, fun _ x _ _ => ?_⟩
    obtain ⟨hle, htie⟩ := hround.nearest hden (magBits x)
    rw [magUnits_signed_of_finite neg hk, magUnits_eq x]
    exact ⟨hle, fun heq hne =>
      getLsbD_zero_signed_of_finite neg hk (htie heq fun hj => hne (congrArg unitsOf hj))⟩

/-- Settles O53: the flags of the three answers of RN, with tininess as a bound. -/
theorem roundingFlags : Obligations.RoundingFlags := by
  intro neg num den _ hden
  obtain ⟨k, -, ⟨-, h⟩ | ⟨hk, hexact, h⟩ | ⟨hk, hinexact, h⟩⟩ := roundRN_cases neg (num := num) hden
  · simp [h, isInf_infOf]
  · simp [h, isInf_signed_of_finite neg hk, magUnits_signed_of_finite neg hk, hexact]
  · have htiny := isTiny_iff (num := num) hden
    simp only [h, isInf_signed_of_finite neg hk, magUnits_signed_of_finite neg hk]
    refine ⟨by simp, fun _ he => absurd he hinexact, fun _ _ hlt => ?_, fun _ _ hge => ?_⟩
    · rw [htiny.mpr hlt]; rfl
    · rw [Bool.eq_false_of_not_eq_true fun ht => hge.not_gt (htiny.mp ht)]; rfl

/-- Settles O54: a representable magnitude rounds to its own magnitude bits. -/
theorem representableValuesRoundToThemselves : Obligations.RepresentableValuesRoundToThemselves := by
  intro x den hden hnan hinf _
  have hx := magBits_lt_of_finite hnan hinf
  rw [magUnits_eq]
  obtain ⟨k, hround, h⟩ := roundRN_cases (signBit x) (num := unitsOf (magBits x) * den) hden
  obtain rfl := hround.eq_of_exact hden rfl
  obtain ⟨hk, -⟩ | ⟨-, -, h⟩ | ⟨-, hne, -⟩ := h
  · omega
  · rw [h, signed_signBit_magBits]
  · exact absurd rfl hne

end Sys2Proof.Machine
end

section
/-! PROOFS. The five primitives case by case (00_scope.md R16, R17) and the quiet comparisons (R18). -/

namespace Sys2Proof.Machine

/-! ### NaN operands (R17) -/

section
variable {a b c : Word} (x : Raised Word)

theorem snanFlag_pair (a b : Word) :
    snanFlag [a, b] = if isSNaN a || isSNaN b then flagNV else 0 := by
  simp [snanFlag, flagIf]

theorem snanFlag_triple (a b c : Word) :
    snanFlag [a, b, c] = if isSNaN a || isSNaN b || isSNaN c then flagNV else 0 := by
  simp [snanFlag, flagIf, or_assoc]

theorem withNaN_of_first (l : List Word) (ha : isNaN a = true) :
    withNaN (a :: l) x = ⟨quietNaN a, snanFlag (a :: l)⟩ := by
  simp [withNaN, ha]

theorem withNaN_of_second (l : List Word) (ha : isNaN a = false) (hb : isNaN b = true) :
    withNaN (a :: b :: l) x = ⟨quietNaN b, snanFlag (a :: b :: l)⟩ := by
  simp [withNaN, ha, hb]

theorem withNaN_of_third (ha : isNaN a = false) (hb : isNaN b = false) (hc : isNaN c = true) :
    withNaN [a, b, c] x = ⟨quietNaN c, snanFlag [a, b, c]⟩ := by
  simp [withNaN, ha, hb, hc]

theorem withNaN_pair_of_numbers (ha : isNaN a = false) (hb : isNaN b = false) : withNaN [a, b] x = x := by
  simp [withNaN, ha, hb]

theorem withNaN_triple_of_numbers (ha : isNaN a = false) (hb : isNaN b = false) (hc : isNaN c = false) :
    withNaN [a, b, c] x = x := by
  simp [withNaN, ha, hb, hc]

end

/-! ### Exact sums -/

theorem roundSum_of_ne_zero (zneg : Bool) {num : Int} (den : Nat) (h : num ≠ 0) :
    roundSum zneg num den = roundRN (decide (num < 0)) num.natAbs den := if_neg h

theorem roundSum_of_eq_zero (zneg : Bool) {num : Int} (den : Nat) (h : num = 0) :
    roundSum zneg num den = ⟨if zneg then 0x8000000000000000#64 else 0, 0⟩ := by
  rw [roundSum, if_pos h, zeroOf_eq]; rfl

/-! ### FADD and FSUB -/

section
variable {a b : Word}

theorem fadd_of_numbers (ha : isNaN a = false) (hb : isNaN b = false) : fadd a b = addNumbers a b :=
  withNaN_pair_of_numbers _ ha hb

theorem fsub_of_numbers (ha : isNaN a = false) (hb : isNaN b = false) :
    fsub a b = addNumbers a (fneg b) :=
  withNaN_pair_of_numbers _ ha hb

theorem addNumbers_of_finite (ha : isInf a = false) (hb : isInf b = false) :
    addNumbers a b = roundSum (signBit a && signBit b) (valUnits a + valUnits b) 1 := by
  simp [addNumbers, ha, hb]

theorem addNumbers_of_ne_zero (ha : isInf a = false) (hb : isInf b = false)
    (h : valUnits a + valUnits b ≠ 0) :
    addNumbers a b =
      roundRN (decide (valUnits a + valUnits b < 0)) (valUnits a + valUnits b).natAbs 1 := by
  rw [addNumbers_of_finite ha hb, roundSum_of_ne_zero _ _ h]

/-- Two negative numbers with an exact zero sum are both −0. -/
theorem isZero_of_negative_zero_sum (ha : signBit a = true) (hb : signBit b = true)
    (h : valUnits a + valUnits b = 0) : isZero a = true ∧ isZero b = true := by
  simp only [valUnits, ha, hb, if_true] at h
  exact ⟨(magUnits_eq_zero_iff a).mp (by omega), (magUnits_eq_zero_iff b).mp (by omega)⟩

/-- An exact zero sum is +0, but for two zeros of one sign (R16). -/
theorem addNumbers_of_eq_zero (ha : isInf a = false) (hb : isInf b = false)
    (h : valUnits a + valUnits b = 0) :
    addNumbers a b = if isZero a = true ∧ a = b then ⟨a, 0⟩ else ⟨0, 0⟩ := by
  rw [addNumbers_of_finite ha hb, roundSum_of_eq_zero _ _ h]
  by_cases hneg : signBit a = true ∧ signBit b = true
  · obtain ⟨hsa, hsb⟩ := hneg
    obtain ⟨hza, hzb⟩ := isZero_of_negative_zero_sum hsa hsb h
    have ha0 := zeroOf_signBit hza
    have hb0 := zeroOf_signBit hzb
    rw [hsa] at ha0
    rw [hsb] at hb0
    subst ha0 hb0
    rfl
  · rw [if_neg (by simpa using hneg)]
    split
    · next hz =>
      obtain ⟨hza, rfl⟩ := hz
      rw [← zeroOf_signBit hza, Bool.eq_false_of_not_eq_true fun hs => hneg ⟨hs, hs⟩]
      rfl
    · rfl

theorem addNumbers_of_isInf_left (ha : isInf a = true) (hs : isInf b = true → signBit a = signBit b) :
    addNumbers a b = ⟨a, 0⟩ := by
  rw [addNumbers, if_pos ha, if_neg (by simpa using hs)]; rfl

theorem addNumbers_of_isInf_right (hb : isInf b = true) (hs : isInf a = true → signBit b = signBit a) :
    addNumbers a b = ⟨b, 0⟩ := by
  cases ha : isInf a with
  | true =>
    obtain rfl : a = b := by rw [← infOf_signBit ha, ← infOf_signBit hb, hs ha]
    exact addNumbers_of_isInf_left ha fun _ => rfl
  | false => simp [addNumbers, ha, hb, Raised.quiet]

theorem addNumbers_of_opposite_infinities (ha : isInf a = true) (hb : isInf b = true)
    (hs : signBit a ≠ signBit b) : addNumbers a b = ⟨0x7FF8000000000000#64, flagNV⟩ := by
  rw [addNumbers, if_pos ha, if_pos (by simp [hb, hs])]; rfl

/-! ### FMUL and FDIV -/

/-- FMUL on numbers (R16). -/
theorem fmul_of_numbers (ha : isNaN a = false) (hb : isNaN b = false) :
    fmul a b =
      if isInf a || isInf b then
        if isZero a || isZero b then invalid else .quiet (infOf (signBit a != signBit b))
      else if isZero a || isZero b then .quiet (zeroOf (signBit a != signBit b))
      else roundRN (signBit a != signBit b) (magUnits a * magUnits b) (2 ^ 1074) :=
  withNaN_pair_of_numbers _ ha hb

theorem fmul_comm_of_numbers (ha : isNaN a = false) (hb : isNaN b = false) : fmul a b = fmul b a := by
  rw [fmul_of_numbers ha hb, fmul_of_numbers hb ha, Bool.or_comm (isInf a), Bool.or_comm (isZero a),
    bne_comm (a := signBit a), Nat.mul_comm]

theorem fmul_of_isInf (ha : isInf a = true) (hb : isNaN b = false) (hz : isZero b = false) :
    fmul a b =
      ⟨if signBit a != signBit b then 0xFFF0000000000000#64 else 0x7FF0000000000000#64, 0⟩ := by
  simp [fmul_of_numbers (isNaN_of_isInf ha) hb, ha, isZero_of_isInf ha, hz, infOf_eq, Raised.quiet]

theorem fmul_of_zero_inf (ha : isZero a = true) (hb : isInf b = true) :
    fmul a b = ⟨0x7FF8000000000000#64, flagNV⟩ := by
  rw [fmul_of_numbers (isNaN_of_isZero ha) (isNaN_of_isInf hb), if_pos (by simp [hb]),
    if_pos (by simp [ha])]
  rfl

theorem valUnits_mul_eq_zero_iff (a b : Word) :
    valUnits a * valUnits b = 0 ↔ (isZero a || isZero b) = true := by
  rw [mul_eq_zero, valUnits_eq_zero_iff, valUnits_eq_zero_iff, Bool.or_eq_true]

/-- FDIV on numbers (R16). -/
theorem fdiv_of_numbers (ha : isNaN a = false) (hb : isNaN b = false) :
    fdiv a b =
      if isInf a then
        if isInf b then invalid else .quiet (infOf (signBit a != signBit b))
      else if isInf b then .quiet (zeroOf (signBit a != signBit b))
      else if isZero b then
        if isZero a then invalid else ⟨infOf (signBit a != signBit b), flagDZ⟩
      else if isZero a then .quiet (zeroOf (signBit a != signBit b))
      else roundRN (signBit a != signBit b) (magUnits a * 2 ^ 1074) (magUnits b) :=
  withNaN_pair_of_numbers _ ha hb

end

/-! ### FMA -/

section
variable {a b c : Word}

theorem zeroTimesInf_comm (a b : Word) : zeroTimesInf a b = zeroTimesInf b a := by
  simp only [zeroTimesInf]
  rw [Bool.or_comm, Bool.and_comm (isInf a), Bool.and_comm (isZero a)]

theorem zeroTimesInf_of_isNaN_left (ha : isNaN a = true) : zeroTimesInf a b = false := by
  simp [zeroTimesInf, isZero_of_isNaN ha, isInf_of_isNaN ha]

theorem zeroTimesInf_of_isNaN_right (hb : isNaN b = true) : zeroTimesInf a b = false := by
  rw [zeroTimesInf_comm, zeroTimesInf_of_isNaN_left hb]

theorem zeroTimesInf_of_finite (ha : isInf a = false) (hb : isInf b = false) :
    zeroTimesInf a b = false := by
  simp [zeroTimesInf, ha, hb]

theorem zeroTimesInf_of_isInf (ha : isInf a = true) (hz : isZero b = false) :
    zeroTimesInf a b = false := by
  simp [zeroTimesInf, isZero_of_isInf ha, hz]

theorem fma_of_not_zeroTimesInf (h : zeroTimesInf a b = false) :
    fma a b c = withNaN [a, b, c] (fmaNumbers a b c) := by
  simp [fma, h]

theorem fma_of_zeroTimesInf (h : zeroTimesInf a b = true) (hc : isNaN c = false) :
    fma a b c = ⟨0x7FF8000000000000#64, flagNV⟩ := by
  rw [fma, if_pos h, if_neg (by simp [hc])]; rfl

theorem fma_of_numbers (hz : zeroTimesInf a b = false) (ha : isNaN a = false) (hb : isNaN b = false)
    (hc : isNaN c = false) : fma a b c = fmaNumbers a b c := by
  rw [fma_of_not_zeroTimesInf hz, withNaN_triple_of_numbers _ ha hb hc]

theorem fmaNumbers_comm (a b c : Word) : fmaNumbers a b c = fmaNumbers b a c := by
  rw [fmaNumbers, fmaNumbers, Bool.or_comm (isInf a), Bool.xor_comm (signBit a), mul_comm (valUnits a)]

theorem fma_comm_of_numbers (ha : isNaN a = false) (hb : isNaN b = false) (hc : isNaN c = false) :
    fma a b c = fma b a c := by
  cases hz : zeroTimesInf a b with
  | true => rw [fma_of_zeroTimesInf hz hc, fma_of_zeroTimesInf (zeroTimesInf_comm a b ▸ hz) hc]
  | false =>
    rw [fma_of_numbers hz ha hb hc, fma_of_numbers (zeroTimesInf_comm a b ▸ hz) hb ha hc, fmaNumbers_comm]

theorem fmaNumbers_of_finite (ha : isInf a = false) (hb : isInf b = false) (hc : isInf c = false) :
    fmaNumbers a b c = roundSum ((signBit a != signBit b) && signBit c)
      (valUnits a * valUnits b + valUnits c * 2 ^ 1074) (2 ^ 1074) := by
  rw [fmaNumbers, if_neg (by simp [ha, hb]), if_neg (by simp [hc])]

theorem fma_of_isInf (ha : isInf a = true) (hb : isNaN b = false) (hz : isZero b = false)
    (hc : isNaN c = false) (hs : isInf c = true → signBit c = (signBit a != signBit b)) :
    fma a b c =
      ⟨if signBit a != signBit b then 0xFFF0000000000000#64 else 0x7FF0000000000000#64, 0⟩ := by
  rw [fma_of_numbers (zeroTimesInf_of_isInf ha hz) (isNaN_of_isInf ha) hb hc, fmaNumbers,
    if_pos (by simp [ha]), if_neg, infOf_eq]
  · rfl
  · intro h
    obtain ⟨hi, hne⟩ := Bool.and_eq_true_iff.mp h
    exact bne_iff_ne.mp hne (hs hi).symm

theorem fma_of_opposite_infinities (ha : isInf a = true) (hb : isNaN b = false) (hz : isZero b = false)
    (hc : isInf c = true) (hs : signBit c ≠ (signBit a != signBit b)) :
    fma a b c = ⟨0x7FF8000000000000#64, flagNV⟩ := by
  rw [fma_of_numbers (zeroTimesInf_of_isInf ha hz) (isNaN_of_isInf ha) hb (isNaN_of_isInf hc),
    fmaNumbers, if_pos (by simp [ha]), if_pos]
  · rfl
  · exact Bool.and_eq_true_iff.mpr ⟨hc, bne_iff_ne.mpr hs.symm⟩

theorem fma_of_isInf_addend (ha : isNaN a = false) (hb : isNaN b = false) (hia : isInf a = false)
    (hib : isInf b = false) (hc : isInf c = true) : fma a b c = ⟨c, 0⟩ := by
  rw [fma_of_numbers (zeroTimesInf_of_finite hia hib) ha hb (isNaN_of_isInf hc)]
  simp [fmaNumbers, hia, hib, hc, Raised.quiet]

end

/-! ### The statements about the primitives -/

/-- Settles O55: each clause is one case of a primitive on numbers. -/
theorem primitivesOnNumbers : Obligations.PrimitivesOnNumbers := by
  intro a b c ha hb hc
  refine ⟨?add, ?sub, ?addZero, ?subZero, ?mul, ?mulZero, ?div, ?zeroDiv, ?divZero, ?fma, ?fmaZero,
    ?addInf, ?subInf, ?mulInf, ?divInf, ?fmaInf, ?fmaInfAddend⟩
  case add =>
    intro hia hib h
    rw [fadd_of_numbers ha hb, addNumbers_of_ne_zero hia hib h]
  case sub =>
    intro hia hib h
    rw [sub_eq_add_neg, ← valUnits_fneg] at h ⊢
    rw [fsub_of_numbers ha hb, addNumbers_of_ne_zero hia ((isInf_fneg b).trans hib) h]
  case addZero =>
    intro hia hib h
    rw [fadd_of_numbers ha hb, addNumbers_of_eq_zero hia hib h]
  case subZero =>
    intro hia hib h
    rw [sub_eq_add_neg, ← valUnits_fneg] at h
    have hswap : b = fneg a ↔ a = fneg b :=
      ⟨fun e => by rw [e, fneg_fneg], fun e => by rw [e, fneg_fneg]⟩
    rw [fsub_of_numbers ha hb, addNumbers_of_eq_zero hia ((isInf_fneg b).trans hib) h]
    simp only [hswap]
  case mul =>
    intro hia hib h
    rw [Ne, valUnits_mul_eq_zero_iff] at h
    rw [fmul_of_numbers ha hb, if_neg (by simp [hia, hib]), if_neg h]
  case mulZero =>
    intro hia hib h
    rw [valUnits_mul_eq_zero_iff] at h
    rw [fmul_of_numbers ha hb, if_neg (by simp [hia, hib]), if_pos h, zeroOf_eq]
    rfl
  case div =>
    intro hia hib hza hzb
    rw [Ne, valUnits_eq_zero_iff] at hza hzb
    rw [fdiv_of_numbers ha hb, if_neg (by simp [hia]), if_neg (by simp [hib]), if_neg hzb, if_neg hza]
  case zeroDiv =>
    intro hza hzb
    simp [fdiv_of_numbers ha hb, isInf_of_isZero hza, hza, hzb, zeroOf_eq, Raised.quiet]
  case divZero =>
    intro hia hza hzb
    rw [Ne, valUnits_eq_zero_iff] at hza
    simp [fdiv_of_numbers ha hb, hia, hza, isInf_of_isZero hzb, hzb, infOf_eq]
  case fma =>
    intro hia hib hic h
    rw [fma_of_numbers (zeroTimesInf_of_finite hia hib) ha hb hc, fmaNumbers_of_finite hia hib hic,
      roundSum_of_ne_zero _ _ h]
  case fmaZero =>
    intro hia hib hic h
    rw [fma_of_numbers (zeroTimesInf_of_finite hia hib) ha hb hc, fmaNumbers_of_finite hia hib hic,
      roundSum_of_eq_zero _ _ h]
  case addInf =>
    intro hia hs
    rw [fadd_of_numbers ha hb, fadd_of_numbers hb ha]
    exact ⟨addNumbers_of_isInf_left hia hs, addNumbers_of_isInf_right hia hs⟩
  case subInf =>
    intro hia hs
    rw [fsub_of_numbers ha hb, fsub_of_numbers hb ha]
    constructor
    · refine addNumbers_of_isInf_left hia fun hib => ?_
      rw [signBit_fneg, Bool.eq_not]
      exact hs ((isInf_fneg b).symm.trans hib)
    · refine addNumbers_of_isInf_right ((isInf_fneg a).trans hia) fun hib => ?_
      rw [signBit_fneg, Bool.not_eq]
      exact hs hib
  case mulInf =>
    intro hia hzb
    rw [fmul_comm_of_numbers hb ha]
    exact ⟨fmul_of_isInf hia hb hzb, fmul_of_isInf hia hb hzb⟩
  case divInf =>
    intro hia hib
    rw [fdiv_of_numbers ha hb, fdiv_of_numbers hb ha, bne_comm (a := signBit b)]
    simp [hia, hib, infOf_eq, zeroOf_eq, Raised.quiet]
  case fmaInf =>
    intro hia hzb hs
    rw [fma_comm_of_numbers hb ha hc]
    exact ⟨fma_of_isInf hia hb hzb hc hs, fma_of_isInf hia hb hzb hc hs⟩
  case fmaInfAddend =>
    intro hia hib hic
    exact fma_of_isInf_addend ha hb hia hib hic

/-- Settles O56: the first three clauses by the position of the first NaN, the rest by invalid operation. -/
theorem nanRule : Obligations.NanRule := by
  intro a b c
  simp only [← snanFlag_pair, ← snanFlag_triple]
  refine ⟨?first, ?second, ?third, ?infinities, ?zeroInf, ?zeroOverZero, ?infAndProduct⟩
  case first =>
    intro ha
    rw [fma_of_not_zeroTimesInf (zeroTimesInf_of_isNaN_left ha)]
    exact ⟨withNaN_of_first _ _ ha, withNaN_of_first _ _ ha, withNaN_of_first _ _ ha,
      withNaN_of_first _ _ ha, withNaN_of_first _ _ ha⟩
  case second =>
    intro ha hb
    rw [fma_of_not_zeroTimesInf (zeroTimesInf_of_isNaN_right hb)]
    exact ⟨withNaN_of_second _ _ ha hb, withNaN_of_second _ _ ha hb, withNaN_of_second _ _ ha hb,
      withNaN_of_second _ _ ha hb, withNaN_of_second _ _ ha hb⟩
  case third =>
    intro ha hb hc
    split
    · next hz => rw [fma, if_pos hz, if_pos hc]
    · next hz =>
      rw [fma_of_not_zeroTimesInf (Bool.eq_false_of_not_eq_true hz), withNaN_of_third _ ha hb hc]
  case infinities =>
    intro hia hib
    have ha := isNaN_of_isInf hia
    have hb := isNaN_of_isInf hib
    rw [fadd_of_numbers ha hb, fsub_of_numbers ha hb, fdiv_of_numbers ha hb, if_pos hia, if_pos hib]
    refine ⟨addNumbers_of_opposite_infinities hia hib, fun hs => ?_, rfl⟩
    exact addNumbers_of_opposite_infinities hia (by simpa using hib) (by simp [hs])
  case zeroInf =>
    intro hza hib
    have ha := isNaN_of_isZero hza
    have hb := isNaN_of_isInf hib
    have hz : zeroTimesInf a b = true := by simp [zeroTimesInf, hza, hib]
    refine ⟨fmul_of_zero_inf hza hib, ?_, fun hc => ⟨fma_of_zeroTimesInf hz hc, ?_⟩⟩
    · rw [fmul_comm_of_numbers hb ha, fmul_of_zero_inf hza hib]
    · rw [fma_of_zeroTimesInf (zeroTimesInf_comm a b ▸ hz) hc]
  case zeroOverZero =>
    intro hza hzb
    simp [fdiv_of_numbers (isNaN_of_isZero hza) (isNaN_of_isZero hzb), isInf_of_isZero hza,
      isInf_of_isZero hzb, hza, hzb, invalid, defaultNaN]
  case infAndProduct =>
    intro hia hb hzb hic hs
    rw [fma_comm_of_numbers hb (isNaN_of_isInf hia) (isNaN_of_isInf hic)]
    exact ⟨fma_of_opposite_infinities hia hb hzb hic hs, fma_of_opposite_infinities hia hb hzb hic hs⟩

/-! ### Comparisons (R18) -/

theorem quietCompare_val_of_isNaN {a b : Word} (h : isNaN a = true ∨ isNaN b = true) (holds : Bool) :
    (quietCompare a b holds).val = false := by
  obtain h | h := h <;> simp [quietCompare, h]

section
variable {a b : Word} (ha : isNaN a = false) (hb : isNaN b = false)
include ha hb

theorem flt_val_iff : (flt a b).val = true ↔ valUnits a < valUnits b := by
  simp [flt, quietCompare, ha, hb]

theorem feq_val_iff : (feq a b).val = true ↔ valUnits a = valUnits b := by
  simp [feq, quietCompare, ha, hb]

end

theorem magUnits_infOf (neg : Bool) : magUnits (infOf neg) = unitsOf (2047 * 2 ^ 52) := by
  rw [magUnits_eq, (isInf_iff _).mp (isInf_infOf neg)]

/-- Every number lies between the infinities. -/
theorem valUnits_between_infinities {b : Word} (hb : isNaN b = false) :
    valUnits (infOf true) ≤ valUnits b ∧ valUnits b ≤ valUnits (infOf false) := by
  have hmag := unitsOf_strictMono.monotone (magBits_le_of_not_isNaN hb)
  rw [← magUnits_eq] at hmag
  simp only [valUnits, signBit_infOf, magUnits_infOf, if_true, Bool.false_eq_true, if_false]
  generalize unitsOf (2047 * 2 ^ 52) = top at hmag
  split <;> omega

/-- No other word has an infinity's value. -/
theorem valUnits_eq_infOf_iff {b : Word} (neg : Bool) : valUnits b = valUnits (infOf neg) ↔ b = infOf neg := by
  rw [valUnits_inj, isZero_of_isInf (isInf_infOf neg)]
  simp

/-- Settles O57: the comparisons are those of the values, and every number lies between the infinities. -/
theorem quietComparisons : Obligations.QuietComparisons := by
  intro a b
  refine ⟨snanFlag_pair a b, snanFlag_pair a b,
    fun h => ⟨quietCompare_val_of_isNaN h _, quietCompare_val_of_isNaN h _⟩, fun ha hb => ?_⟩
  have hnegInf : (0xFFF0000000000000#64 : Word) = infOf true := (infOf_eq true).symm
  have hposInf : (0x7FF0000000000000#64 : Word) = infOf false := (infOf_eq false).symm
  obtain ⟨hloA, hhiA⟩ := valUnits_between_infinities ha
  obtain ⟨hloB, hhiB⟩ := valUnits_between_infinities hb
  rw [feq_val_iff ha hb, flt_val_iff ha hb, valUnits_inj, hnegInf, hposInf, ← Bool.not_eq_true (flt a b).val,
    flt_val_iff ha hb]
  refine ⟨Iff.rfl, fun _ _ => Iff.rfl, ?_, ?_, ?_, ?_⟩
  · rintro rfl
    rw [hloB.lt_iff_ne', Ne, valUnits_eq_infOf_iff]
  · rintro rfl
    rw [hhiA.lt_iff_ne, Ne, valUnits_eq_infOf_iff]
  · rintro rfl
    exact hhiB.not_gt
  · rintro rfl
    exact hloA.not_gt

end Sys2Proof.Machine
end

section
/-! PROOFS. What each instruction answers, for every content of FFLAGS at once: who writes what (10_state.md R42,
R44, R46; 20_memory.md R81), where PC goes (R48), and that flags are only ever OR'd in (R50). -/

namespace Sys2Proof.Machine

/-! ### A state with other flags -/

/-- The state with this content of FFLAGS. -/
def State.withFlags (s : State) (g : Flags) : State := { s with fflags := g }

section
variable (s : State) (g : Flags)

@[simp] theorem State.withFlags_pc : (s.withFlags g).pc = s.pc := rfl
@[simp] theorem State.withFlags_status : (s.withFlags g).status = s.status := rfl
@[simp] theorem State.readW_withFlags (r : WReg) : (s.withFlags g).readW r = s.readW r := rfl
@[simp] theorem State.readD_withFlags (r : DReg) : (s.withFlags g).readD r = s.readD r := rfl
@[simp] theorem State.dmemRead_withFlags (a : Nat) : (s.withFlags g).dmemRead a = s.dmemRead a := rfl
@[simp] theorem State.writeW_withFlags (r : WReg) (v : Word) :
    (s.withFlags g).writeW r v = (s.writeW r v).withFlags g := rfl
@[simp] theorem State.writeD_withFlags (r : DReg) (v : DD) :
    (s.withFlags g).writeD r v = (s.writeD r v).withFlags g := rfl
@[simp] theorem State.writeK_withFlags (x : Half) : (s.withFlags g).writeK x = (s.writeK x).withFlags g := rfl
@[simp] theorem State.dmemWrite_withFlags (a : Nat) (v : Word) :
    (s.withFlags g).dmemWrite a v = (s.dmemWrite a v).withFlags g := rfl

end

/-! ### The listed writers -/

/-- The updates of registers and DMEM that the writer lists of R42, R44, R46 and R81 leave to an instruction. -/
inductive ListedUpdate (i : Instr) (s : State) : State → Prop where
  | none : ListedUpdate i s s
  | w (hi : writesWordRegister i = true) (r : WReg) (v : Word) : ListedUpdate i s (s.writeW r v)
  | ww (hi : writesWordRegister i = true) (r q : WReg) (v x : Word) :
    ListedUpdate i s ((s.writeW r v).writeW q x)
  | d (hi : writesDDRegister i = true) (r : DReg) (v : DD) : ListedUpdate i s (s.writeD r v)
  | k (hi : writesK i = true) (x : Half) : ListedUpdate i s (s.writeK x)
  | kd (hk : writesK i = true) (hd : writesDDRegister i = true) (x : Half) (r : DReg) (v : DD) :
    ListedUpdate i s ((s.writeK x).writeD r v)
  | m (hi : writesDmem i = true) (a : Nat) (v : Word) : ListedUpdate i s (s.dmemWrite a v)
  | mm (hi : writesDmem i = true) (a b : Nat) (v x : Word) :
    ListedUpdate i s ((s.dmemWrite a v).dmemWrite b x)

section
variable {i : Instr} {s u : State} (h : ListedUpdate i s u)
include h

theorem ListedUpdate.keepsW (hi : writesWordRegister i = false) : KeepsW s u := by
  cases h with
  | w hw | ww hw => simp [hi] at hw
  | _ => simp [KeepsW]

theorem ListedUpdate.keepsD (hi : writesDDRegister i = false) : KeepsD s u := by
  cases h with
  | d hd | kd _ hd => simp [hi] at hd
  | _ => simp [KeepsD]

theorem ListedUpdate.keepsK (hi : writesK i = false) : u.k = s.k := by
  cases h with
  | k hk | kd hk => simp [hi] at hk
  | _ => simp

theorem ListedUpdate.keepsDmem (hi : writesDmem i = false) : KeepsDmem s u := by
  cases h with
  | m hm | mm hm => simp [hi] at hm
  | _ => simp [KeepsDmem]

theorem ListedUpdate.keepsPc : u.pc = s.pc := by cases h <;> simp

theorem ListedUpdate.keepsStatus : u.status = s.status := by cases h <;> simp

end

/-! ### The answers of `exec` -/

/-- What an instruction answers on a state, with every content g of FFLAGS: it completes with a listed update and flags
that do not depend on g, jumps, stops, clears g, copies g, or leaves g as it is. -/
inductive Answers (i : Instr) (s : State) : Prop where
  | advanced (u : State) (f : Flags) (hu : ListedUpdate i s u)
    (hx : ∀ g, exec i (s.withFlags g) = .next ((u.withFlags g).raiseFlags f).advance)
  | jumped (f : Flags) (x : BitVec 8) (hi : isBranch i = true)
    (hx : ∀ g, exec i (s.withFlags g) = .next (((s.withFlags g).raiseFlags f).jumpTo x))
  | faulted (c : Cause) (hx : ∀ g, exec i (s.withFlags g) = faultOf (s.withFlags g) c i)
  | halted (hi : i = .halt) (hx : ∀ g, exec i (s.withFlags g) = .next { s.withFlags g with status := .halted })
  | cleared (hi : i = .fclr) (hx : ∀ g, exec i (s.withFlags g) = .next (s.withFlags 0).advance)
  | copied (r : WReg) (hi : i = .frd r)
    (hx : ∀ g, exec i (s.withFlags g) = .next ((s.withFlags g).writeW r (g.setWidth 64)).advance)
  | stopped (e : Fault) (hx : ∀ g, exec i (s.withFlags g) = .fault e)

section
variable {i : Instr} {s : State}

/-- Completion with a listed update and no flag. -/
theorem Answers.plain {u : State} (hu : ListedUpdate i s u)
    (hx : ∀ g, exec i (s.withFlags g) = .next (u.withFlags g).advance) : Answers i s :=
  .advanced u 0 hu fun g => by rw [hx g]; simp

theorem Answers.ofW (hi : writesWordRegister i = true) (r : WReg) (x : Raised Word)
    (hx : ∀ g, exec i (s.withFlags g) = completeW (s.withFlags g) r x) : Answers i s :=
  .advanced _ x.flags (.w hi r x.val) hx

theorem Answers.ofD (hi : writesDDRegister i = true) (r : DReg) (x : Raised DD)
    (hx : ∀ g, exec i (s.withFlags g) = completeD (s.withFlags g) r x) : Answers i s :=
  .advanced _ x.flags (.d hi r x.val) hx

theorem Answers.ofBranch (hi : isBranch i = true) (c : Raised Bool) (x : BitVec 8)
    (hx : ∀ g, exec i (s.withFlags g) = branchOn c x (s.withFlags g)) : Answers i s := by
  cases hc : c.val
  · exact .advanced s c.flags .none fun g => (hx g).trans (branchOn_eq_next.mpr (.inr ⟨hc, rfl⟩))
  · exact .jumped c.flags x hi fun g => (hx g).trans (branchOn_eq_next.mpr (.inl ⟨hc, rfl⟩))

end

/-- The answer of each of the 42 instructions, on any state. -/
theorem exec_answers (i : Instr) (s : State) : Answers i s := by
  cases i with
  | nop => exact .plain .none fun _ => rfl
  | halt => exact .halted rfl fun _ => rfl
  | fclr => exact .cleared rfl fun _ => rfl
  | frd wd => exact .copied wd rfl fun _ => rfl
  | krd wd => exact .plain (.w rfl wd (s.k.setWidth 64)) fun _ => rfl
  | kwr ws => exact .plain (.k rfl ((s.readW ws).setWidth 32)) fun _ => rfl
  | ldw wd addr =>
    cases hr : s.dmemRead (dmemAddress addr) with
    | some v => exact .plain (.w rfl wd v) fun g => by simp [exec, execLdw, hr]
    | none => exact .stopped (.unwrittenDmem (dmemAddress addr)) fun g => by simp [exec, execLdw, hr]
  | stw ws addr => exact .plain (.m rfl (dmemAddress addr) (s.readW ws)) fun _ => rfl
  | ldd dd addr =>
    cases ho : isOdd addr with
    | true => exact .faulted .misaligned fun g => by simp [exec, execLdd, ho]
    | false =>
      cases hh : s.dmemRead (dmemAddress addr) with
      | none => exact .stopped (.unwrittenDmem (dmemAddress addr)) fun g => by simp [exec, execLdd, ho, hh]
      | some h =>
        cases hl : s.dmemRead (dmemAddress addr + 1) with
        | none =>
          exact .stopped (.unwrittenDmem (dmemAddress addr + 1)) fun g => by simp [exec, execLdd, ho, hh, hl]
        | some l => exact .plain (.d rfl dd ⟨h, l⟩) fun g => by simp [exec, execLdd, ho, hh, hl]
  | std ds addr =>
    cases ho : isOdd addr with
    | true => exact .faulted .misaligned fun g => by simp [exec, execStd, ho]
    | false =>
      exact .plain (.mm rfl (dmemAddress addr) (dmemAddress addr + 1) (s.readD ds).hi (s.readD ds).lo)
        fun g => by simp [exec, execStd, ho]
  | movw wd ws => exact .plain (.w rfl wd (s.readW ws)) fun _ => rfl
  | dmov dd ds => exact .plain (.d rfl dd (s.readD ds)) fun _ => rfl
  | dneg dd da => exact .ofD rfl dd (.quiet (ddNeg (s.readD da))) fun _ => rfl
  | dmk dd wh wl => exact .ofD rfl dd (.quiet ⟨s.readW wh, s.readW wl⟩) fun _ => rfl
  | ddec wh wl da =>
    by_cases hr : wh = wl
    · exact .faulted .illegal fun g => by simp [exec, execDdec, hr]
    · exact .plain (.ww rfl wh wl (s.readD da).hi (s.readD da).lo) fun g => by simp [exec, execDdec, hr]
  | split dd wa => exact .ofD rfl dd (splitWord (s.readW wa)) fun _ => rfl
  | tsum dd wa wb => exact .ofD rfl dd (twoSum (s.readW wa) (s.readW wb)) fun _ => rfl
  | ftsum dd wa wb => exact .ofD rfl dd (fastTwoSum (s.readW wa) (s.readW wb)) fun _ => rfl
  | daddw dd da wb => exact .ofD rfl dd (ddAddW (s.readD da) (s.readW wb)) fun _ => rfl
  | dadd dd da db => exact .ofD rfl dd (ddAdd (s.readD da) (s.readD db)) fun _ => rfl
  | dsub dd da db => exact .ofD rfl dd (ddSub (s.readD da) (s.readD db)) fun _ => rfl
  | tprod dd wa wb => exact .ofD rfl dd (twoProd (s.readW wa) (s.readW wb)) fun _ => rfl
  | tsqr dd wa => exact .ofD rfl dd (twoSqr (s.readW wa)) fun _ => rfl
  | dsqr dd da => exact .ofD rfl dd (ddSqr (s.readD da)) fun _ => rfl
  | dmulw dd da wb => exact .ofD rfl dd (ddMulW (s.readD da) (s.readW wb)) fun _ => rfl
  | dmul dd da db => exact .ofD rfl dd (ddMul (s.readD da) (s.readD db)) fun _ => rfl
  | ddivw dd da wb => exact .ofD rfl dd (ddDivW (s.readD da) (s.readW wb)) fun _ => rfl
  | ddiv dd da db => exact .ofD rfl dd (ddDiv (s.readD da) (s.readD db)) fun _ => rfl
  | rred dd da =>
    cases ha : rredAdmits (s.readD da).hi with
    | true =>
      exact .advanced _ (rred (s.readD da)).flags
        (.kd rfl rfl (BitVec.ofNat 32 (rred (s.readD da)).val.1) dd (rred (s.readD da)).val.2)
        fun g => by simp [exec, execRred, ha]
    | false => exact .faulted .range fun g => by simp [exec, execRred, ha]
  | epolyP dd wa => exact .ofD rfl dd (epoly (s.poly .P) .P (s.readW wa)) fun _ => rfl
  | epolyM dd wa => exact .ofD rfl dd (epoly (s.poly .M) .M (s.readW wa)) fun _ => rfl
  | tcombP dd da => exact .ofD rfl dd (tcomb .P (indexOf s.k) (s.readD da)) fun _ => rfl
  | tcombM dd da => exact .ofD rfl dd (tcomb .M (indexOf s.k) (s.readD da)) fun _ => rfl
  | lcorrP dd wa => exact .ofD rfl dd (lcorr .P (s.readW wa)) fun _ => rfl
  | lcorrM dd wa => exact .ofD rfl dd (lcorr .M (s.readW wa)) fun _ => rfl
  | rsclP wd da =>
    cases ha : rsclAdmits (s.readD da).hi with
    | true =>
      exact .ofW rfl wd (rscl .P (s.readD da).hi (quotientOf s.k)) fun g => by simp [exec, execRsclP, ha]; rfl
    | false => exact .faulted .range fun g => by simp [exec, execRsclP, ha]
  | rsclM wd da =>
    cases ha : rsclAdmits (s.readD da).hi with
    | true =>
      exact .ofW rfl wd (rscl .M (s.readD da).hi (quotientOf s.k)) fun g => by simp [exec, execRsclM, ha]; rfl
    | false => exact .faulted .range fun g => by simp [exec, execRsclM, ha]
  | expx2 wd wa => exact .ofW rfl wd (expSquare (s.poly .P) .P (s.readW wa)) fun _ => rfl
  | expmx2 wd wa => exact .ofW rfl wd (expSquare (s.poly .M) .M (s.readW wa)) fun _ => rfl
  | jmp target => exact .jumped 0 target rfl fun g => by simp [exec, execJmp]
  | bflt wa wb target => exact .ofBranch rfl (flt (s.readW wa) (s.readW wb)) target fun _ => rfl
  | bfeq wa wb target => exact .ofBranch rfl (feq (s.readW wa) (s.readW wb)) target fun _ => rfl

/-- Two answers of one next state are the same state. -/
theorem eq_of_next {o : Out} {t u : State} (h : o = .next t) (hx : o = .next u) : t = u :=
  Host.Outcome.next.inj (h.symm.trans hx)

/-! ### The statements about instructions -/

/-- Settles O22: a listed update keeps what its instruction is not listed for; every other answer keeps all four,
but for FRD, which is listed for word registers. -/
theorem onlyListedWritersWrite : Obligations.OnlyListedWritersWrite := by
  intro i s t h
  cases exec_answers i s with
  | advanced u f hu hx =>
    obtain rfl := eq_of_next h (hx s.fflags)
    exact ⟨hu.keepsW, hu.keepsD, hu.keepsK, hu.keepsDmem⟩
  | copied r hi hx =>
    obtain rfl := eq_of_next h (hx s.fflags)
    exact ⟨by simp [hi, writesWordRegister], fun _ _ => rfl, fun _ => rfl, fun _ _ => rfl⟩
  | stopped e hx => exact nomatch h.symm.trans (hx s.fflags)
  | jumped _ _ _ hx | faulted _ hx | halted _ hx | cleared _ hx =>
    obtain rfl := eq_of_next h (hx s.fflags)
    exact ⟨fun _ _ => rfl, fun _ _ => rfl, fun _ => rfl, fun _ _ => rfl⟩

/-- Settles O23: every answer but FCLR's leaves FFLAGS alone or ORs flags into it. -/
theorem onlyFclrClearsFlags : Obligations.OnlyFclrClearsFlags := by
  intro i s t h hi
  have or_kept (f : Flags) : s.fflags &&& (s.fflags ||| f) = s.fflags := by ext; simp +contextual
  cases exec_answers i s with
  | advanced _ f _ hx | jumped f _ _ hx =>
    obtain rfl := eq_of_next h (hx s.fflags)
    exact or_kept f
  | faulted _ hx | halted _ hx | copied _ _ hx =>
    obtain rfl := eq_of_next h (hx s.fflags)
    exact BitVec.and_self
  | cleared hc => exact absurd hc hi
  | stopped _ hx => exact nomatch h.symm.trans (hx s.fflags)

/-- Settles O24: each answer but FRD's is given with one accumulator, or one stop, for every content of FFLAGS. -/
theorem nothingButFrdReadsFlags : Obligations.NothingButFrdReadsFlags := by
  intro i s g hfrd
  have or_zero : g ||| 0 = g := BitVec.or_zero
  refine ⟨fun t h hi => ?_, fun t h hi => ?_, fun e h => ?_⟩
  · cases exec_answers i s with
    | advanced _ f _ hx | jumped f _ _ hx =>
      obtain rfl := eq_of_next h (hx s.fflags)
      exact ⟨f, rfl, hx g⟩
    | faulted _ hx | halted _ hx =>
      obtain rfl := eq_of_next h (hx s.fflags)
      exact ⟨0, BitVec.or_zero.symm, by rw [or_zero]; exact hx g⟩
    | cleared hc => exact absurd hc hi
    | copied r hr => exact absurd hr (hfrd r)
    | stopped _ hx => exact nomatch h.symm.trans (hx s.fflags)
  · subst hi
    obtain rfl : (s.withFlags 0).advance = t := Host.Outcome.next.inj h
    exact ⟨rfl, rfl⟩
  · cases exec_answers i s with
    | stopped _ hx =>
      obtain rfl := Host.Outcome.fault.inj (h.symm.trans (hx s.fflags))
      exact hx g
    | advanced _ _ _ hx | jumped _ _ _ hx | faulted _ hx | halted _ hx | cleared _ hx | copied _ _ hx =>
      exact nomatch h.symm.trans (hx s.fflags)

theorem branchOn_pc {s t : State} {c : Raised Bool} {x : BitVec 8} (h : branchOn c x s = .next t) :
    t.pc = if c.val then x.setWidth 9 else s.pc + 1 := by
  obtain ⟨hc, rfl⟩ | ⟨hc, rfl⟩ := branchOn_eq_next.mp h <;> simp [hc]

/-- Settles O11: the answers by what they do to PC and STATUS; the three control transfers by their own meaning. -/
theorem pcAdvance : Obligations.PcAdvance := by
  intro i s t hrun h
  refine ⟨fun hf => ?fault, fun hi => ?halt, fun x hi => ?jmp, fun a b x hi => ?bflt, fun a b x hi => ?bfeq,
    fun hf hhalt hbranch => ?other⟩
  case fault =>
    cases exec_answers i s with
    | faulted _ hx | halted _ hx =>
      obtain rfl := eq_of_next h (hx s.fflags)
      rfl
    | advanced _ _ hu hx =>
      obtain rfl := eq_of_next h (hx s.fflags)
      simp [hu.keepsStatus, hrun] at hf
    | jumped _ _ _ hx | cleared _ hx | copied _ _ hx =>
      obtain rfl := eq_of_next h (hx s.fflags)
      simp [hrun] at hf
    | stopped _ hx => exact nomatch h.symm.trans (hx s.fflags)
  case halt =>
    subst hi
    rw [← Host.Outcome.next.inj h]
  case jmp =>
    subst hi
    rw [← Host.Outcome.next.inj h, State.jumpTo_pc]
  case bflt =>
    subst hi
    exact branchOn_pc h
  case bfeq =>
    subst hi
    exact branchOn_pc h
  case other =>
    cases exec_answers i s with
    | advanced _ _ hu hx =>
      obtain rfl := eq_of_next h (hx s.fflags)
      simp [hu.keepsPc]
    | cleared _ hx | copied _ _ hx =>
      obtain rfl := eq_of_next h (hx s.fflags)
      simp
    | jumped _ _ hj => simp [hj] at hbranch
    | faulted _ hx =>
      obtain rfl := eq_of_next h (hx s.fflags)
      simp at hf
    | halted hi => exact absurd hi hhalt
    | stopped _ hx => exact nomatch h.symm.trans (hx s.fflags)

end Sys2Proof.Machine
end

section
/-! PROOFS. The step as the host and the core share it: the commands of CTRL (10_state.md R55, R501), the host's
writes of control registers (R56, R57), and what no step changes but as listed (R51, R60; 20_memory.md R96). -/

namespace Sys2Proof.Machine

/-! ### Host accesses -/

section
variable {s : State} {es : List HostEvent}

theorem step_access {a : HostAccess} (h : s.host = .access a :: es) :
    step s = hostAccess a { s with host := es } := by
  simp [step, h]

/-- An allowed write stores at what its offset names (R86, R87). -/
theorem hostAccess_write {off : BitVec 12} (v : Half) (hoff : off.toNat % 4 = 0)
    (hrun : s.status = .running → hostLocAt off.toNat = .ctrl) :
    hostAccess (.write off 32 v) s = .next (s.hostStore v (hostLocAt off.toNat)) := by
  have hallowed : ¬(s.status = .running ∧ hostLocAt off.toNat ≠ .ctrl) := fun ⟨hs, hne⟩ => hne (hrun hs)
  simpa [hostAccess, hostWellFormed, hoff] using hallowed

/-- A read of CTRL of a core that is not running answers 0 (R55). -/
theorem hostAccess_read_ctrl (hs : s.status ≠ .running) :
    hostAccess (.read 0 32) s = .next { s with hostReply := 0 } := by
  have hloc : hostLocAt 0 = .ctrl := rfl
  simp [hostAccess, hostWellFormed, hloc, hs, State.hostValue]

end

/-- Settles O12: the read and the write of offset 0, with the three branches of a command. -/
theorem ctrlCommands : Obligations.CtrlCommands := by
  refine ⟨fun s es h hs => ?read, fun s v es h => ?write⟩
  case read =>
    rw [step_access h]
    exact hostAccess_read_ctrl hs
  case write =>
    have hloc : hostLocAt (0 : BitVec 12).toNat = .ctrl := rfl
    rw [step_access h, hostAccess_write v rfl fun _ => hloc, hloc]
    simp only [State.hostStore, State.command, bne_iff_ne, Bool.and_eq_true]
    rfl

/-- What the port ignores writes of: the read-only registers and the offsets that name nothing (R87). -/
def ignoresWrites : HostLoc → Bool
  | .status | .cause | .epc | .finst | .id | .unmapped => true
  | _ => false

theorem hostStore_of_ignoresWrites {s : State} {v : Half} {loc : HostLoc} (h : ignoresWrites loc = true) :
    s.hostStore v loc = s := by
  cases loc <;> simp_all [ignoresWrites, State.hostStore]

theorem hostLocAt_of_lt_0x100 {n : Nat} (hlo : 0x024 ≤ n) (hhi : n < 0x100) : hostLocAt n = .unmapped := by
  unfold hostLocAt
  rw [if_pos hhi]
  split
  case h_10 => rfl
  all_goals omega

theorem hostLocAt_of_lt_0x400 {n : Nat} (hlo : 0x200 ≤ n) (hhi : n < 0x400) : hostLocAt n = .unmapped := by
  have h100 : ¬n < 0x100 := by omega
  have h180 : ¬n < 0x180 := by omega
  simp [hostLocAt, h100, h180, hlo.not_gt, hhi]

/-- Settles O16: each offset by what it names. -/
theorem hostWritesControlRegisters : Obligations.HostWritesControlRegisters := by
  intro s v off es h hs
  have hstore (hoff : off.toNat % 4 = 0) :
      step s = .next (State.hostStore { s with host := es } v (hostLocAt off.toNat)) :=
    (step_access h).trans (hostAccess_write v hoff fun hrun => absurd hrun hs)
  have hignored (hoff : off.toNat % 4 = 0) (hloc : ignoresWrites (hostLocAt off.toNat) = true) :
      step s = .next { s with host := es } :=
    (hstore hoff).trans (congrArg _ (hostStore_of_ignoresWrites hloc))
  refine ⟨?pc, ?fflags, ?k, ?ignored⟩
  case ignored =>
    rintro (rfl | rfl | rfl | rfl | rfl | ⟨hoff, hlo, hhi⟩ | ⟨hoff, hlo, hhi⟩)
    iterate 5 exact hignored rfl rfl
    · exact hignored hoff (by rw [hostLocAt_of_lt_0x100 hlo hhi]; rfl)
    · exact hignored hoff (by rw [hostLocAt_of_lt_0x400 hlo hhi]; rfl)
  case pc | fflags | k =>
    rintro rfl
    exact hstore rfl

/-! ### What no step writes -/

theorem Update.keepsRom {s u : State} (h : Update s u) : u.polyP = s.polyP ∧ u.polyM = s.polyM := by
  cases h <;> simp

theorem Update.keepsImem {s u : State} (h : Update s u) : u.imem = s.imem := by cases h <;> simp

theorem Update.keepsStatus {s u : State} (h : Update s u) : u.status = s.status := by cases h <;> simp

section
variable {i : Instr} {s t : State} (h : Completes i s t)
include h

theorem Completes.keepsRom : t.polyP = s.polyP ∧ t.polyM = s.polyM := by
  cases h with
  | advanced u f hu => exact hu.keepsRom
  | _ => exact ⟨rfl, rfl⟩

theorem Completes.keepsImem : t.imem = s.imem := by
  cases h with
  | advanced u f hu => exact hu.keepsImem
  | _ => rfl

/-- An instruction leaves STATUS alone, or is HALT, or faults with a cause and its PC in EPC (R51, R402). -/
theorem Completes.status_cases :
    t.status = s.status ∨ (i = .halt ∧ t.status = .halted) ∨
      (t.status = .faulted ∧ t.cause ≠ .none ∧ t.epc = s.pc) := by
  cases h with
  | fault c hc => exact .inr (.inr ⟨rfl, hc, rfl⟩)
  | halted hi => exact .inr (.inl ⟨hi, rfl⟩)
  | advanced u f hu => exact .inl hu.keepsStatus
  | cleared | jumped => exact .inl rfl

end

section
variable {s t : State} (h : coreStep s = .next t)
include h

theorem coreStep_keepsRom : t.polyP = s.polyP ∧ t.polyM = s.polyM := by
  obtain ⟨-, rfl⟩ | ⟨-, -, w, i, -, -, hx⟩ | ⟨-, -, rfl⟩ | ⟨-, -, w, e, -, -, rfl⟩ := coreStep_eq_next h
  case inr.inl => exact (exec_completes hx).keepsRom
  all_goals exact ⟨rfl, rfl⟩

theorem coreStep_keepsImem : t.imem = s.imem := by
  obtain ⟨-, rfl⟩ | ⟨-, -, w, i, -, -, hx⟩ | ⟨-, -, rfl⟩ | ⟨-, -, w, e, -, -, rfl⟩ := coreStep_eq_next h
  case inr.inl => exact (exec_completes hx).keepsImem
  all_goals rfl

/-- The core changes STATUS by the HALT at PC or by a fault, and only while it runs (R51). -/
theorem coreStep_status_cases :
    t.status = s.status ∨
    (s.status = .running ∧ t.status = .halted ∧
      ∃ w, s.imemRead s.pc.toNat = some w ∧ decode w = .ok .halt) ∨
    (s.status = .running ∧ t.status = .faulted ∧ t.cause ≠ .none ∧ t.epc = s.pc) := by
  obtain ⟨-, rfl⟩ | ⟨hs, -, w, i, hw, hd, hx⟩ | ⟨hs, -, rfl⟩ | ⟨hs, -, _, _, -, -, rfl⟩ := coreStep_eq_next h
  · exact .inl rfl
  · obtain hkept | ⟨rfl, hhalt⟩ | hfault := (exec_completes hx).status_cases
    · exact .inl hkept
    · exact .inr (.inl ⟨hs, hhalt, w, hw, hd⟩)
    · exact .inr (.inr ⟨hs, hfault⟩)
  · exact .inr (.inr ⟨hs, rfl, nofun, rfl⟩)
  · exact .inr (.inr ⟨hs, rfl, nofun, rfl⟩)

end

theorem State.command_cases (s : State) (v : Half) :
    (v.getLsbD 1 = true ∧ s.command v = s.softReset) ∨
    (v.getLsbD 1 = false ∧ v.getLsbD 0 = true ∧ s.status ≠ .running ∧ s.command v = s.start) ∨
    s.command v = s := by
  simp only [State.command, bne_iff_ne, Bool.and_eq_true]
  split
  · next hreset => exact .inl ⟨hreset, rfl⟩
  · next hreset =>
    split
    · next hstart => exact .inr (.inl ⟨by simpa using hreset, hstart.1, hstart.2, rfl⟩)
    · exact .inr (.inr rfl)

theorem hostStore_keepsRom (s : State) (v : Half) (loc : HostLoc) :
    (s.hostStore v loc).polyP = s.polyP ∧ (s.hostStore v loc).polyM = s.polyM := by
  cases loc with
  | ctrl =>
    obtain ⟨-, h⟩ | ⟨-, -, -, h⟩ | h := s.command_cases v <;> simp [State.hostStore, h]
  | _ => exact ⟨rfl, rfl⟩

theorem hostStore_keepsStatus (s : State) (v : Half) {loc : HostLoc} (h : loc ≠ .ctrl) :
    (s.hostStore v loc).status = s.status := by
  cases loc with
  | ctrl => exact absurd rfl h
  | _ => rfl

theorem hostAccess_keepsRom {a : HostAccess} {s t : State} (h : hostAccess a s = .next t) :
    t.polyP = s.polyP ∧ t.polyM = s.polyM := by
  obtain ⟨_, v, -, -, -, -, rfl⟩ | ⟨off, v, -, -, -, rfl⟩ := hostAccess_eq_next h
  · exact ⟨rfl, rfl⟩
  · exact hostStore_keepsRom s v _

/-- The host changes STATUS by START and SRESET only (R55). -/
theorem hostAccess_status_cases {a : HostAccess} {s t : State} (h : hostAccess a s = .next t) :
    t.status = s.status ∨
    ∃ v, a = .write 0 32 v ∧
      ((v.getLsbD 1 = true ∧ t.status = .idle) ∨
        (v.getLsbD 1 = false ∧ v.getLsbD 0 = true ∧ s.status ≠ .running ∧ t.status = .running)) := by
  obtain ⟨_, v, -, -, -, -, rfl⟩ | ⟨off, v, rfl, -, -, rfl⟩ := hostAccess_eq_next h
  · exact .inl rfl
  · by_cases hloc : hostLocAt off.toNat = .ctrl
    · obtain rfl := (hostLocAt_eq_ctrl off).mp hloc
      rw [hloc, State.hostStore]
      obtain ⟨hreset, h⟩ | ⟨hreset, hstart, hs, h⟩ | h := s.command_cases v <;> rw [h]
      · exact .inr ⟨v, rfl, .inl ⟨hreset, rfl⟩⟩
      · exact .inr ⟨v, rfl, .inr ⟨hreset, hstart, hs, rfl⟩⟩
      · exact .inl rfl
    · exact .inl (hostStore_keepsStatus s v hloc)

/-- Who moves in a step: the core, with its host events as they are or with an idle one taken off, the host, or
power-on. -/
theorem step_movers {s t : State} (h : step s = .next t) :
    (∃ es, coreStep { s with host := es } = .next t) ∨
    (∃ a es, s.host = .access a :: es ∧ hostAccess a { s with host := es } = .next t) ∨
    (∃ es, s.host = .powerOn :: es ∧ t = State.powerCycle { s with host := es }) := by
  obtain ⟨-, hc⟩ | ⟨es, -, hc⟩ | hrest := step_eq_next h
  · exact .inl ⟨s.host, hc⟩
  · exact .inl ⟨es, hc⟩
  · exact .inr hrest

/-- Settles O21: the core, the host port and power-on each keep the coefficients, and the core keeps IMEM. -/
theorem romAndImemAreNotWritten : Obligations.RomAndImemAreNotWritten := by
  refine ⟨fun s t h => ?_, fun s t h => coreStep_keepsImem h⟩
  obtain ⟨es, hc⟩ | ⟨a, es, -, ha⟩ | ⟨es, -, rfl⟩ := step_movers h
  · exact coreStep_keepsRom (s := { s with host := es }) hc
  · exact hostAccess_keepsRom (s := { s with host := es }) ha
  · exact ⟨rfl, rfl⟩

/-- Settles O10: the transitions of the core, of the host port and of power-on. -/
theorem statusChangesOnlyAsListed : Obligations.StatusChangesOnlyAsListed := by
  intro s t h
  obtain ⟨es, hc⟩ | ⟨a, es, hhost, ha⟩ | ⟨es, hhost, rfl⟩ := step_movers h
  · obtain hkept | hhalt | hfault := coreStep_status_cases hc
    · exact .inl hkept
    · exact .inr (.inr (.inl hhalt))
    · exact .inr (.inr (.inr (.inl hfault)))
  · obtain hkept | ⟨v, rfl, ⟨hreset, ht⟩ | ⟨hreset, hstart, hs, ht⟩⟩ := hostAccess_status_cases ha
    · exact .inl hkept
    · exact .inr (.inr (.inr (.inr ⟨ht, .inr ⟨v, es, hhost, hreset⟩⟩)))
    · exact .inr (.inl ⟨hs, ht, v, es, hhost, hstart, hreset⟩)
  · exact .inr (.inr (.inr (.inr ⟨rfl, .inl ⟨es, hhost⟩⟩)))

end Sys2Proof.Machine
end

section
/-! PROOFS. The exponent tables (10_state.md R61): an integer root by bisection brackets 2^(±j/32), and RN takes both
ends of the bracket to the table's entry. -/

namespace Sys2Proof.Machine

/-! ### The integer 32nd root -/

/-- The low `b` bits of the 32nd root of x, from the highest down, on top of what `acc` has of it. -/
def rootBits (x : Nat) : Nat → Nat → Nat
  | 0, acc => acc
  | b + 1, acc => if (acc + 2 ^ b) ^ 32 ≤ x then rootBits x b (acc + 2 ^ b) else rootBits x b acc

theorem rootBits_bracket {x b acc : Nat} (hlo : acc ^ 32 ≤ x) (hhi : x < (acc + 2 ^ b) ^ 32) :
    rootBits x b acc ^ 32 ≤ x ∧ x < (rootBits x b acc + 1) ^ 32 := by
  induction b generalizing acc with
  | zero => exact ⟨hlo, hhi⟩
  | succ b ih =>
    rw [rootBits]
    split
    · next hbit => exact ih hbit (by rwa [add_assoc, ← two_mul, ← pow_succ'])
    · next hbit => exact ih hlo (not_le.mp hbit)

/-- A power of two is a 32nd power only where 32 divides its exponent. -/
theorem pow_32_ne_two_pow {m : Nat} (hm : m % 32 ≠ 0) (n : Nat) : n ^ 32 ≠ 2 ^ m := by
  intro h
  obtain ⟨k, -, rfl⟩ := (Nat.dvd_prime_pow Nat.prime_two).mp (h ▸ dvd_pow_self n (by decide : 32 ≠ 0))
  rw [← pow_mul] at h
  have hk := Nat.pow_right_injective le_rfl h
  omega

/-- The bits of a root of 2^m, `b` of them being enough, bracket the root strictly. -/
theorem rootBits_two_pow_bracket {m b : Nat} (hlt : m < b * 32) (hm : m % 32 ≠ 0) :
    rootBits (2 ^ m) b 0 ^ 32 < 2 ^ m ∧ 2 ^ m < (rootBits (2 ^ m) b 0 + 1) ^ 32 := by
  have hhi : 2 ^ m < (0 + 2 ^ b) ^ 32 := by
    rw [zero_add, ← pow_mul]
    exact Nat.pow_lt_pow_right one_lt_two hlt
  obtain ⟨hle, hgt⟩ := rootBits_bracket (Nat.zero_le _) hhi
  exact ⟨lt_of_le_of_ne hle (pow_32_ne_two_pow hm _), hgt⟩

/-! ### The entries -/

/-- RN takes n/2^200 to the entry's hi and what is left of it to its lo. -/
def roundsToEntry (n : Nat) (entry : DD) : Bool :=
  let rest := (n : Int) * 2 ^ 1074 - valUnits entry.hi * 2 ^ 200
  (roundRN false (n * 2 ^ 1074) (2 ^ 200)).val == entry.hi &&
    (roundRN (decide (rest < 0)) rest.natAbs (2 ^ 200)).val == entry.lo

/-- RN takes both ends of the bracket of 2^(m/32 − 200) to the entry with index j. -/
def bracketRounds (table : List DD) (m j : Nat) : Bool :=
  let n := rootBits (2 ^ m) 201 0
  table[j]?.any fun entry => roundsToEntry n entry && roundsToEntry (n + 1) entry

theorem tabP_bracketRounds : ∀ j < 32, 1 ≤ j → bracketRounds romTabP (6400 + j) j = true := by decide +kernel

theorem tabM_bracketRounds : ∀ j < 32, 1 ≤ j → bracketRounds romTabM (6400 - j) j = true := by decide +kernel

/-- The entry of TAB_M is half of its mirror entry of TAB_P in both words. -/
def halvesMirror (j : Nat) : Bool :=
  romTabP[32 - j]?.any fun p => romTabM[j]?.any fun m =>
    valUnits p.hi == 2 * valUnits m.hi && valUnits p.lo == 2 * valUnits m.lo

theorem tabM_halvesMirror : ∀ j < 32, 1 ≤ j → halvesMirror j = true := by decide +kernel

/-- What a checked bracket says of its entry. -/
theorem exists_entry_of_bracketRounds {table : List DD} {m j : Nat} (h : bracketRounds table m j = true)
    (hlt : m < 201 * 32) (hm : m % 32 ≠ 0) :
    ∃ n entry, table[j]? = some entry ∧ n ^ 32 < 2 ^ m ∧ 2 ^ m < (n + 1) ^ 32 ∧
      roundsToEntry n entry = true ∧ roundsToEntry (n + 1) entry = true := by
  obtain ⟨hlo, hhi⟩ := rootBits_two_pow_bracket hlt hm
  rw [bracketRounds, Option.any_eq_true] at h
  obtain ⟨entry, hentry, hrounds⟩ := h
  rw [Bool.and_eq_true] at hrounds
  exact ⟨rootBits (2 ^ m) 201 0, entry, hentry, hlo, hhi, hrounds⟩

/-- Settles O59: the bracket of each entry is the integer root's, and RN's words are computed at its two ends. -/
theorem exponentTablesAreRounded : Obligations.ExponentTablesAreRounded := by
  refine ⟨rfl, rfl, rfl, rfl, fun j hpos hlt => ?_⟩
  have hplus := exists_entry_of_bracketRounds (tabP_bracketRounds j hlt hpos) (by omega) (by omega)
  have hminus := exists_entry_of_bracketRounds (tabM_bracketRounds j hlt hpos) (by omega) (by omega)
  have hmirror := tabM_halvesMirror j hlt hpos
  simp only [roundsToEntry, Bool.and_eq_true, beq_iff_eq] at hplus hminus
  simp only [halvesMirror, Option.any_eq_true, Bool.and_eq_true, beq_iff_eq] at hmirror
  obtain ⟨p, hp, m, hm, hhalves⟩ := hmirror
  exact ⟨hplus, hminus, p, m, hp, hm, hhalves⟩

end Sys2Proof.Machine
end

section
/-! PROOFS. The canonical form of both memories (20_memory.md R80, R81, R85): a store of an instruction and a write of
the host stay inside the memory they write, and nothing else writes one. -/

namespace Sys2Proof.Machine

/-- A memory in canonical form with every listed byte below `bound`. -/
def Memory.Canonical (bound : Nat) (m : Memory) : Prop := m.wf = true ∧ m.within bound = true

theorem State.wf_iff (s : State) :
    s.wf = true ↔
      s.imem.Canonical (imemByte Config.imemWords) ∧ s.dmem.Canonical (dmemByte Config.dmemWords) := by
  simp only [State.wf, Memory.Canonical, Bool.and_eq_true, and_assoc]

theorem Memory.Canonical.writeLE {bound a n : Nat} {m : Memory} (hm : m.Canonical bound) (h : a + n ≤ bound)
    (v : Nat) : (m.writeLE a n v).Canonical bound := by
  obtain ⟨hwf, hin⟩ := hm
  exact ⟨Memory.writeLE_wf n m a v hwf, Memory.writeLE_within n m bound a v hin h⟩

theorem dmemByte_add_le {a b : Nat} (h : a < b) : dmemByte a + 8 ≤ dmemByte b := by
  unfold dmemByte
  omega

theorem imemByte_add_le {a b : Nat} (h : a < b) : imemByte a + 4 ≤ imemByte b := by
  unfold imemByte
  omega

/-! ### Writes of one word -/

section
variable {s : State} (hs : s.wf = true)
include hs

theorem State.dmemWrite_wf {a : Nat} (ha : a < Config.dmemWords) (v : Word) : (s.dmemWrite a v).wf = true := by
  obtain ⟨himem, hdmem⟩ := s.wf_iff.mp hs
  exact (State.wf_iff _).mpr ⟨himem, hdmem.writeLE (dmemByte_add_le ha) v.toNat⟩

theorem State.imemWrite_wf {a : Nat} (ha : a < Config.imemWords) (v : Half) : (s.imemWrite a v).wf = true := by
  obtain ⟨himem, hdmem⟩ := s.wf_iff.mp hs
  exact (State.wf_iff _).mpr ⟨himem.writeLE (imemByte_add_le ha) v.toNat, hdmem⟩

/-! ### The core -/

theorem Update.keepsWf {u : State} (h : Update s u) : u.wf = true := by
  cases h with
  | m a v ha => exact State.dmemWrite_wf hs ha v
  | mm a v x ha => exact State.dmemWrite_wf (State.dmemWrite_wf hs (Nat.lt_of_succ_lt ha) v) ha x
  | _ => exact hs

theorem Completes.keepsWf {i : Instr} {t : State} (h : Completes i s t) : t.wf = true := by
  cases h with
  | advanced u f hu => exact hu.keepsWf hs
  | _ => exact hs

theorem coreStep_keepsWf {t : State} (h : coreStep s = .next t) : t.wf = true := by
  obtain ⟨-, rfl⟩ | ⟨-, -, w, i, -, -, hx⟩ | ⟨-, -, rfl⟩ | ⟨-, -, w, e, -, -, rfl⟩ := coreStep_eq_next h
  case inr.inl => exact (exec_completes hx).keepsWf hs
  all_goals exact hs

end

/-! ### The host -/

/-- A memory word the port names is inside its memory (R80, R81). -/
def HostLoc.InMemory : HostLoc → Prop
  | .imem n => n < Config.imemWords
  | .dmem n _ => n < Config.dmemWords
  | _ => True

theorem hostLocAt_inMemory (off : Nat) : (hostLocAt off).InMemory := by
  unfold hostLocAt
  split_ifs
  case pos => split <;> trivial
  · trivial
  · trivial
  · trivial
  · show (off - 0x400) / 4 < 256
    omega
  · show (off - 0x800) / 8 < 256
    omega
  · trivial

/-- A half of a DMEM word lies inside the word's eight bytes (R83). -/
theorem dmemHalfByte_bounds (n : Nat) (upper : Bool) :
    dmemByte n ≤ dmemHalfByte n upper ∧ dmemHalfByte n upper + 4 ≤ dmemByte n + 8 := by
  unfold dmemHalfByte
  split <;> omega

theorem hostStore_keepsWf {s : State} (hs : s.wf = true) (v : Half) {loc : HostLoc} (hloc : loc.InMemory) :
    (s.hostStore v loc).wf = true := by
  cases loc with
  | ctrl =>
    obtain ⟨-, h⟩ | ⟨-, -, -, h⟩ | h := s.command_cases v <;> rw [State.hostStore, h] <;> exact hs
  | imem n => exact State.imemWrite_wf hs hloc v
  | dmem n upper =>
    obtain ⟨himem, hdmem⟩ := s.wf_iff.mp hs
    obtain ⟨-, hhalf⟩ := dmemHalfByte_bounds n upper
    exact (State.wf_iff _).mpr ⟨himem, hdmem.writeLE (hhalf.trans (dmemByte_add_le hloc)) v.toNat⟩
  | _ => exact hs

theorem hostAccess_keepsWf {a : HostAccess} {s t : State} (hs : s.wf = true) (h : hostAccess a s = .next t) :
    t.wf = true := by
  obtain ⟨_, v, -, -, -, -, rfl⟩ | ⟨off, v, -, -, -, rfl⟩ := hostAccess_eq_next h
  · exact hs
  · exact hostStore_keepsWf hs v (hostLocAt_inMemory off.toNat)

/-- Settles O18: the core and the host port keep the form, and power-on empties both memories. -/
theorem stepKeepsMemoriesCanonical : Obligations.StepKeepsMemoriesCanonical := by
  intro s t hs h
  obtain ⟨es, hc⟩ | ⟨a, es, -, ha⟩ | ⟨es, -, rfl⟩ := step_movers h
  · exact coreStep_keepsWf (s := { s with host := es }) hs hc
  · exact hostAccess_keepsWf (s := { s with host := es }) hs ha
  · rfl

end Sys2Proof.Machine
end

section
/-! PROOFS. The host port's accesses: which are refused (20_memory.md R87), what a read answers at every offset of the
register map (R86, R89; 10_state.md R58), and 64-bit items read and written by halves (R83, R84, R88). -/

namespace Sys2Proof.Machine

/-! ### A memory word and its halves -/

/-- A group read byte by byte: its first byte is the number's lowest, the rest is the rest of the number. -/
theorem Memory.readLE_succ_eq_some {m : Memory} {a n v : Nat} :
    m.readLE a (n + 1) = some v ↔
      m.readByte a = some (BitVec.ofNat 8 v) ∧ m.readLE (a + 1) n = some (v / 256) := by
  rw [Memory.readLE]
  cases hy : m.readByte a with
  | none => simp
  | some y =>
    have hlt : y.toNat < 256 := y.isLt
    cases hw : m.readLE (a + 1) n with
    | none => simp
    | some w =>
      simp only [Option.some.injEq, BitVec.toNat_eq, BitVec.toNat_ofNat]
      omega

theorem Memory.lt_of_readLE_eq_some {m : Memory} {a n v : Nat} (h : m.readLE a n = some v) : v < 256 ^ n := by
  induction n generalizing a v with
  | zero =>
    obtain rfl : 0 = v := by simpa [Memory.readLE] using h
    exact Nat.one_pos
  | succ n ih =>
    have hrest : v / 256 < 256 ^ n := ih (Memory.readLE_succ_eq_some.mp h).2
    rw [pow_succ]
    omega

/-- A group read is the reads of two parts of it. -/
theorem Memory.readLE_add_eq_some {m : Memory} {a j k v : Nat} :
    m.readLE a (j + k) = some v ↔
      m.readLE a j = some (v % 256 ^ j) ∧ m.readLE (a + j) k = some (v / 256 ^ j) := by
  induction j generalizing a v with
  | zero => simp [Memory.readLE, Nat.mod_one]
  | succ j ih =>
    have hbyte : BitVec.ofNat 8 (v % 256 ^ (j + 1)) = BitVec.ofNat 8 v := by
      apply BitVec.eq_of_toNat_eq
      rw [BitVec.toNat_ofNat, BitVec.toNat_ofNat, pow_succ']
      exact Nat.mod_mul_right_mod v 256 (256 ^ j)
    have hrest : v % 256 ^ (j + 1) / 256 = v / 256 % 256 ^ j := by
      rw [pow_succ', Nat.mod_mul_right_div_self]
    have hlast : v / 256 / 256 ^ j = v / 256 ^ (j + 1) := by
      rw [Nat.div_div_eq_div_mul, pow_succ']
    rw [Nat.add_right_comm j 1 k, Memory.readLE_succ_eq_some, Memory.readLE_succ_eq_some, ih, hbyte, hrest, hlast,
      and_assoc, Nat.add_assoc a 1 j, Nat.add_comm 1 j]

theorem halfOf_toNat (v : Word) (upper : Bool) :
    (halfOf v upper).toNat = if upper then v.toNat / 2 ^ 32 else v.toNat % 2 ^ 32 := by
  have hlt := v.isLt
  cases upper
  · rw [halfOf, if_neg nofun, if_neg nofun, BitVec.extractLsb'_toNat, Nat.shiftRight_zero]
  · rw [halfOf, if_pos rfl, if_pos rfl, BitVec.extractLsb'_toNat, Nat.shiftRight_eq_div_pow]
    omega

/-- A DMEM word is read where both its halves are (R83, R86). -/
theorem State.dmemRead_eq_some {s : State} {n : Nat} {v : Word} :
    s.dmemRead n = some v ↔
      ∀ upper, s.dmem.readLE (dmemHalfByte n upper) 4 = some (halfOf v upper).toNat := by
  have hword : s.dmemRead n = some v ↔ s.dmem.readLE (dmemByte n) 8 = some v.toNat := by
    rw [State.dmemRead, Option.map_eq_some_iff]
    refine ⟨fun ⟨x, hx, hv⟩ => ?_, fun h => ⟨v.toNat, h, by simp⟩⟩
    have hlt : x < 2 ^ 64 := Memory.lt_of_readLE_eq_some hx
    rw [hx, ← hv, BitVec.toNat_ofNat, Nat.mod_eq_of_lt hlt]
  rw [hword, show 8 = 4 + 4 from rfl, Memory.readLE_add_eq_some, Bool.forall_bool, halfOf_toNat, halfOf_toNat]
  rfl

@[simp] theorem halfOf_append (hi lo : Half) (upper : Bool) :
    halfOf (hi ++ lo) upper = if upper then hi else lo := by
  cases upper
  · exact BitVec.extractLsb'_append_eq_right
  · exact BitVec.extractLsb'_append_eq_left

/-- A word written low half first is whole once both are written (R88). -/
@[simp] theorem withHalf_withHalf (v : Word) (lo hi : Half) :
    withHalf (withHalf v false lo) true hi = hi ++ lo :=
  congrArg (hi ++ ·) BitVec.extractLsb'_append_eq_right

@[simp] theorem State.writeW_writeW (s : State) (r : WReg) (v x : Word) :
    (s.writeW r v).writeW r x = s.writeW r x := by
  simp [State.writeW]

@[simp] theorem State.writeD_writeD (s : State) (r : DReg) (v x : DD) :
    (s.writeD r v).writeD r x = s.writeD r x := by
  simp [State.writeD]

/-! ### The register map (R86): `u` is 1 for the upper half of a word, `l` is 1 for the lo word of a DD register -/

section
variable {off : Nat}

theorem hostLocAt_w {n : WReg} (u : Nat) (h : off = 0x100 + 8 * n + 4 * u) (hu : u < 2 := by decide) :
    hostLocAt off = .w n (u == 1) := by
  have hupper : off / 4 % 2 = u := by omega
  have hreg : Fin.ofNat 16 ((off - 0x100) / 8) = n := Fin.ext (by rw [Fin.val_ofNat]; omega)
  unfold hostLocAt
  rw [if_neg (by omega), if_pos (by omega), hreg, hupper]

theorem hostLocAt_d {n : DReg} (l u : Nat) (h : off = 0x180 + 16 * n + 8 * l + 4 * u) (hl : l < 2 := by decide)
    (hu : u < 2 := by decide) : hostLocAt off = .d n (l == 1) (u == 1) := by
  have hupper : off / 4 % 2 = u := by omega
  have hlo : off / 8 % 2 = l := by omega
  have hreg : Fin.ofNat 8 ((off - 0x180) / 16) = n := Fin.ext (by rw [Fin.val_ofNat]; omega)
  unfold hostLocAt
  rw [if_neg (by omega), if_neg (by omega), if_pos (by omega), hreg, hlo, hupper]

theorem hostLocAt_imem {n : Nat} (hn : n < 256) (h : off = 0x400 + 4 * n) : hostLocAt off = .imem n := by
  have hword : (off - 0x400) / 4 = n := by omega
  unfold hostLocAt
  rw [if_neg (by omega), if_neg (by omega), if_neg (by omega), if_neg (by omega), if_pos (by omega), hword]

theorem hostLocAt_dmem {n : Nat} (hn : n < 256) (u : Nat) (h : off = 0x800 + 8 * n + 4 * u)
    (hu : u < 2 := by decide) : hostLocAt off = .dmem n (u == 1) := by
  have hupper : off / 4 % 2 = u := by omega
  have hword : (off - 0x800) / 8 = n := by omega
  unfold hostLocAt
  rw [if_neg (by omega), if_neg (by omega), if_neg (by omega), if_neg (by omega), if_neg (by omega),
    if_pos (by omega), hword, hupper]

end

/-! ### Refused accesses (R87) -/

section
variable {s : State} {off : BitVec 12} {bits : Nat}

theorem hostWellFormed_iff : hostWellFormed off bits = true ↔ bits = 32 ∧ off.toNat % 4 = 0 := by
  simp [hostWellFormed]

theorem hostAccess_of_malformed (h : bits ≠ 32 ∨ off.toNat % 4 ≠ 0) :
    hostAccess (.read off bits) s = .refused .hostAccessMalformed ∧
      ∀ v, hostAccess (.write off bits v) s = .refused .hostAccessMalformed := by
  have hform : hostWellFormed off bits = false := by
    rw [← Bool.not_eq_true, hostWellFormed_iff]
    omega
  simp [hostAccess, hform]

theorem hostAccess_read_of_running (hs : s.status = .running) (hoff : off.toNat % 4 = 0) (hne : off ≠ 0x004) :
    hostAccess (.read off 32) s = .refused .hostAccessWhileRunning := by
  have hform : hostWellFormed off 32 = true := hostWellFormed_iff.mpr ⟨rfl, hoff⟩
  have hloc : hostLocAt off.toNat ≠ .status := (hostLocAt_eq_status off).not.mpr hne
  simp [hostAccess, hform, hs, hloc]

theorem hostAccess_write_of_running {v : Half} (hs : s.status = .running) (hoff : off.toNat % 4 = 0)
    (hne : off ≠ 0x000) : hostAccess (.write off 32 v) s = .refused .hostAccessWhileRunning := by
  have hform : hostWellFormed off 32 = true := hostWellFormed_iff.mpr ⟨rfl, hoff⟩
  have hloc : hostLocAt off.toNat ≠ .ctrl := (hostLocAt_eq_ctrl off).not.mpr hne
  simp [hostAccess, hform, hs, hloc]

end

/-- Settles O13: the two refusals of an access, each for a read and for a write. -/
theorem hostBreachesAreRefused : Obligations.HostBreachesAreRefused := by
  refine ⟨fun s a es h hs => ⟨?read, ?write⟩, fun s es off bits v hbad => ⟨fun h => ?_, fun h => ?_⟩⟩
  case read =>
    rintro off rfl hoff hne
    rw [step_access h]
    exact hostAccess_read_of_running hs hoff hne
  case write =>
    rintro off v rfl hoff hne
    rw [step_access h]
    exact hostAccess_write_of_running hs hoff hne
  · rw [step_access h]
    exact (hostAccess_of_malformed hbad).1
  · rw [step_access h]
    exact (hostAccess_of_malformed hbad).2 v

/-! ### Reads (R86, R89) -/

section
variable {s : State} {n : Nat} {v : Half}

/-- An allowed read answers what its offset names (R86, R87). -/
theorem hostAccess_read {off : BitVec 12} (hoff : off.toNat % 4 = 0)
    (hrun : s.status = .running → hostLocAt off.toNat = .status)
    (hv : s.hostValue (hostLocAt off.toNat) = .ok v) :
    hostAccess (.read off 32) s = .next { s with hostReply := v } := by
  have hform : hostWellFormed off 32 = true := hostWellFormed_iff.mpr ⟨rfl, hoff⟩
  have hallowed : ¬(s.status = .running ∧ hostLocAt off.toNat ≠ .status) := fun ⟨hs, hne⟩ => hne (hrun hs)
  simpa [hostAccess, hform, hv] using hallowed

theorem State.hostValue_imem (h : s.imemRead n = some v) : s.hostValue (.imem n) = .ok v := by
  simp [State.hostValue, h]

/-- A half of a DMEM word that has a value (R83, R86). -/
theorem State.hostValue_dmem {x : Word} (h : s.dmemRead n = some x) (upper : Bool) :
    s.hostValue (.dmem n upper) = .ok (halfOf x upper) := by
  simp [State.hostValue, State.dmemRead_eq_some.mp h upper]

end

/-- Settles O14: each offset by what it names, and a DMEM word by its halves. -/
theorem hostReadAnswersTheMap : Obligations.HostReadAnswersTheMap := by
  refine ⟨fun s es h hs => ?running, fun s es off v h hs hmap => ?stopped⟩
  case running =>
    rw [step_access h]
    exact hostAccess_read rfl (fun _ => rfl) (congrArg (fun status => Except.ok (statusWord status)) hs)
  case stopped =>
    suffices hread : off.toNat % 4 = 0 ∧ ∃ loc, hostLocAt off.toNat = loc ∧ s.hostValue loc = .ok v by
      obtain ⟨hoff, loc, rfl, hv⟩ := hread
      rw [step_access h]
      exact hostAccess_read hoff (fun hrun => absurd hrun hs) hv
    obtain ⟨rfl, rfl⟩ | ⟨rfl, rfl⟩ | ⟨rfl, rfl⟩ | ⟨rfl, rfl⟩ | ⟨rfl, rfl⟩ | ⟨rfl, rfl⟩ | ⟨rfl, rfl⟩ | ⟨rfl, rfl⟩ |
      ⟨rfl, rfl⟩ | ⟨n, ho, rfl⟩ | ⟨n, ho, rfl⟩ | ⟨n, ho, rfl⟩ | ⟨n, ho, rfl⟩ | ⟨n, ho, rfl⟩ | ⟨n, ho, rfl⟩ |
      ⟨n, ho, hv⟩ | ⟨n, x, ho, hx, rfl⟩ | ⟨n, x, ho, hx, rfl⟩ | ⟨hoff, hlo, hhi, rfl⟩ | ⟨hoff, hlo, hhi, rfl⟩ := hmap
    iterate 9 exact ⟨rfl, _, rfl, rfl⟩
    · exact ⟨by omega, _, hostLocAt_w 0 ho, rfl⟩
    · exact ⟨by omega, _, hostLocAt_w (n := n) 1 (by omega), rfl⟩
    · exact ⟨by omega, _, hostLocAt_d 0 0 ho, rfl⟩
    · exact ⟨by omega, _, hostLocAt_d (n := n) 0 1 (by omega), rfl⟩
    · exact ⟨by omega, _, hostLocAt_d (n := n) 1 0 (by omega), rfl⟩
    · exact ⟨by omega, _, hostLocAt_d (n := n) 1 1 (by omega), rfl⟩
    · exact ⟨by omega, _, hostLocAt_imem n.isLt ho, State.hostValue_imem hv⟩
    · exact ⟨by omega, _, hostLocAt_dmem n.isLt 0 ho, State.hostValue_dmem hx false⟩
    · exact ⟨by omega, _, hostLocAt_dmem n.isLt 1 (by omega), State.hostValue_dmem hx true⟩
    · exact ⟨hoff, .unmapped, hostLocAt_of_lt_0x100 hlo hhi, rfl⟩
    · exact ⟨hoff, .unmapped, hostLocAt_of_lt_0x400 hlo hhi, rfl⟩

/-! ### Writes by halves (R83, R84, R88) -/

/-- The state with these host events to come. -/
def State.withHost (s : State) (es : List HostEvent) : State := { s with host := es }

@[simp] theorem State.withHost_status (s : State) (es : List HostEvent) : (s.withHost es).status = s.status := rfl
@[simp] theorem State.withHost_withHost (s : State) (es fs : List HostEvent) :
    (s.withHost es).withHost fs = s.withHost fs := rfl

/-- A write of the port neither reads nor changes the host events to come. -/
theorem State.hostStore_withHost (s : State) (es : List HostEvent) (v : Half) (loc : HostLoc) :
    (s.withHost es).hostStore v loc = (s.hostStore v loc).withHost es := by
  cases loc with
  | ctrl =>
    simp only [State.hostStore, State.command, apply_ite (State.withHost · es)]
    rfl
  | _ => rfl

/-- A write to a stopped core stores at what its offset names. -/
theorem step_write {s : State} {es : List HostEvent} {off : Nat} {v : Half} (hs : s.status ≠ .running)
    (h : s.host = .access (.write (BitVec.ofNat 12 off) 32 v) :: es) (hoff : off % 4 = 0) (hlt : off < 0x1000) :
    step s = .next ((s.hostStore v (hostLocAt off)).withHost es) := by
  have hnat : (BitVec.ofNat 12 off).toNat = off := by rw [BitVec.toNat_ofNat, Nat.mod_eq_of_lt hlt]
  have haccess := hostAccess_write (s := s.withHost es) (off := BitVec.ofNat 12 off) v (by rwa [hnat])
    fun hrun => absurd hrun hs
  rw [hnat, State.hostStore_withHost] at haccess
  exact (step_access h).trans haccess

/-- Two writes to the halves of an item of a stopped core, the first of them no command, store one after the other. -/
theorem stepN_two_writes {s : State} {off off' : Nat} {lo hi : Half} {loc loc' : HostLoc} (hs : s.status ≠ .running)
    (h : s.host = [.access (.write (BitVec.ofNat 12 off) 32 lo), .access (.write (BitVec.ofNat 12 off') 32 hi)])
    (hoff : off % 8 = 0) (hlt : off < 0x1000) (hnext : off' = off + 4)
    (hloc : hostLocAt off = loc) (hloc' : hostLocAt off' = loc') (hctrl : loc ≠ .ctrl) :
    stepN 2 s = some (((s.hostStore lo loc).hostStore hi loc').withHost []) := by
  have hstopped : (s.hostStore lo loc).status ≠ .running := by rwa [hostStore_keepsStatus s lo hctrl]
  have hfirst := step_write hs h (by omega) hlt
  have hsecond := step_write (s := (s.hostStore lo loc).withHost [.access (.write (BitVec.ofNat 12 off') 32 hi)])
    hstopped rfl (by omega) (by omega)
  rw [hloc] at hfirst
  rw [hloc', State.hostStore_withHost] at hsecond
  simp only [stepN, nextOf, hfirst, hsecond, Option.bind_some, State.withHost_withHost]

/-- The two halves of a DMEM word lie side by side in its eight bytes (R83). -/
theorem Memory.readLE_writeHalves (m : Memory) (n : Nat) (lo hi : Half) (upper : Bool) :
    ((m.writeLE (dmemHalfByte n false) 4 lo.toNat).writeLE (dmemHalfByte n true) 4 hi.toNat).readLE
      (dmemHalfByte n upper) 4 = some (if upper then hi else lo).toNat := by
  have hval (x : Half) : x.toNat % 256 ^ 4 = x.toNat := Nat.mod_eq_of_lt x.isLt
  have hside : dmemHalfByte n true = dmemHalfByte n false + 4 := rfl
  cases upper
  · rw [Memory.readLE_writeLE_disjoint _ _ _ _ _ _ (.inr hside.ge), Memory.readLE_writeLE_same, hval]
    rfl
  · rw [Memory.readLE_writeLE_same, hval]
    rfl

/-- The two halves of a DMEM word, written one after the other, are that word and nothing outside it. -/
theorem storesWord_of_halves (s : State) (n : Nat) (lo hi : Half) :
    StoresWord s (((s.hostStore lo (.dmem n false)).hostStore hi (.dmem n true)).withHost []) n (hi ++ lo) := by
  refine ⟨State.dmemRead_eq_some.mpr fun upper => ?_, fun b hb => ?_⟩
  · rw [halfOf_append]
    exact Memory.readLE_writeHalves s.dmem n lo hi upper
  · have houtside (upper : Bool) : b < dmemHalfByte n upper ∨ dmemHalfByte n upper + 4 ≤ b := by
      have hhalf := dmemHalfByte_bounds n upper
      omega
    exact (Memory.readByte_writeLE_outside _ _ _ _ _ (houtside true)).trans
      (Memory.readByte_writeLE_outside _ _ _ _ _ (houtside false))

/-- Settles O15: the two accesses as two stores, and a word of an item as its two halves. -/
theorem hostWritesByHalves : Obligations.HostWritesByHalves := by
  intro s lo hi hs
  refine ⟨fun n h => ?dmem, fun n h => ?w, fun n h => ?dHi, fun n h => ?dLo, fun n h => ?imem⟩
  case dmem =>
    refine ⟨_, ?_, storesWord_of_halves s n lo hi, by simp only [State.hostStore, State.withHost]⟩
    exact stepN_two_writes hs h (by omega) (by omega) (by omega) (hostLocAt_dmem n.isLt 0 rfl)
      (hostLocAt_dmem n.isLt 1 (by omega)) nofun
  case w =>
    have hlow : hostLocAt (0x100 + 8 * n) = .w n false := hostLocAt_w 0 rfl
    have hhigh : hostLocAt (0x104 + 8 * n) = .w n true := hostLocAt_w 1 (by omega)
    rw [stepN_two_writes hs h (by omega) (by omega) (by omega) hlow hhigh nofun]
    simp [State.hostStore, State.withHost]
  case dHi =>
    have hlow : hostLocAt (0x180 + 16 * n) = .d n false false := hostLocAt_d 0 0 rfl
    have hhigh : hostLocAt (0x184 + 16 * n) = .d n false true := hostLocAt_d 0 1 (by omega)
    rw [stepN_two_writes hs h (by omega) (by omega) (by omega) hlow hhigh nofun]
    simp [State.hostStore, State.withHost]
  case dLo =>
    have hlow : hostLocAt (0x188 + 16 * n) = .d n true false := hostLocAt_d 1 0 (by omega)
    have hhigh : hostLocAt (0x18C + 16 * n) = .d n true true := hostLocAt_d 1 1 (by omega)
    rw [stepN_two_writes hs h (by omega) (by omega) (by omega) hlow hhigh nofun]
    simp [State.hostStore, State.withHost]
  case imem =>
    have hstep := step_write hs h (by omega) (by omega)
    rw [hostLocAt_imem n.isLt rfl] at hstep
    exact ⟨_, hstep, State.imemRead_imemWrite_self s n lo,
      fun b hb => Memory.readByte_writeLE_outside _ _ _ _ _ hb, rfl⟩

end Sys2Proof.Machine
end

section
/-! PROOFS. Decoding and encoding (30_encoding.md R120 to R132): a word is its six fields, each format and each typed
field says when it answers an instruction, and the masks of the opcode table are conditions on the fields. -/

namespace Sys2Proof.Laws

/-! ### A word and its fields (R121) -/

theorem fieldsOf_append (op : BitVec 8) (a b c z : BitVec 4) (n : BitVec 8) :
    fieldsOf (op ++ a ++ b ++ c ++ z ++ n) = ⟨op, a, b, c, z, n⟩ := by
  rw [fieldsOf]
  congr 1 <;>
    simp only [BitVec.extractLsb'_append_eq_of_le, BitVec.extractLsb'_append_eq_right, BitVec.extractLsb'_eq_self,
      Nat.reduceLeDiff, Nat.reduceSub, le_refl]

@[simp] theorem fieldsOf_wordOf (op : BitVec 8) (a b c : BitVec 4) (n : BitVec 8) :
    fieldsOf (wordOf op a b c n) = ⟨op, a, b, c, 0, n⟩ := fieldsOf_append ..

theorem append_fieldsOf (w : Half) :
    (fieldsOf w).op ++ (fieldsOf w).a ++ (fieldsOf w).b ++ (fieldsOf w).c ++ (fieldsOf w).z ++ (fieldsOf w).i = w := by
  simp only [fieldsOf]
  iterate 5 rw [BitVec.extractLsb'_append_extractLsb'_eq_extractLsb' (by rfl)]
  exact BitVec.extractLsb'_eq_self

theorem fieldsOf_injective : Function.Injective fieldsOf := fun w v h => by
  rw [← append_fieldsOf w, h, append_fieldsOf]

/-- A word with Z zero is put together from its other fields. -/
theorem wordOf_eq_iff {op : BitVec 8} {a b c : BitVec 4} {n : BitVec 8} {w : Half} :
    wordOf op a b c n = w ↔ fieldsOf w = ⟨op, a, b, c, 0, n⟩ := by
  rw [← fieldsOf_injective.eq_iff, fieldsOf_wordOf, eq_comm]

/-- A word matches a row when each of its fields does (R126). -/
theorem and_eq_iff_fields {w m p : Half} :
    w &&& m = p ↔
      (⟨(fieldsOf w).op &&& (fieldsOf m).op, (fieldsOf w).a &&& (fieldsOf m).a, (fieldsOf w).b &&& (fieldsOf m).b,
        (fieldsOf w).c &&& (fieldsOf m).c, (fieldsOf w).z &&& (fieldsOf m).z,
        (fieldsOf w).i &&& (fieldsOf m).i⟩ : Fields) = fieldsOf p := by
  rw [← fieldsOf_injective.eq_iff]
  simp only [fieldsOf, BitVec.extractLsb'_and]

theorem and_fifteen (x : BitVec 4) : x &&& 15#4 = x := BitVec.and_allOnes

theorem and_255 (x : BitVec 8) : x &&& 255#8 = x := BitVec.and_allOnes

theorem eq_ofNat_of_toNat_eq {k n : Nat} {x : BitVec k} (h : x.toNat = n) : x = BitVec.ofNat k n := by
  rw [← h, BitVec.ofNat_toNat, BitVec.setWidth_eq]

/-! ### Register fields (R123) -/

/-- The word register a field names. -/
def namedW (x : BitVec 4) : WReg := ⟨x.toNat, x.isLt⟩

/-- The DD register the low three bits of a field name. -/
def namedD (x : BitVec 4) : DReg := ⟨(x.extractLsb' 0 3).toNat, (x.extractLsb' 0 3).isLt⟩

@[simp] theorem namedW_wCode (r : WReg) : namedW (wCode r) = r := by revert r; decide
@[simp] theorem wCode_namedW (x : BitVec 4) : wCode (namedW x) = x := by revert x; decide
@[simp] theorem namedD_dCode (r : DReg) : namedD (dCode r) = r := by revert r; decide

theorem dCode_namedD {x : BitVec 4} (h : x &&& 8#4 = 0#4) : dCode (namedD x) = x := by revert x; decide

@[simp] theorem namedW_inj {x y : BitVec 4} : namedW x = namedW y ↔ x = y :=
  (Function.LeftInverse.injective wCode_namedW).eq_iff

@[simp] theorem wCode_inj {r q : WReg} : wCode r = wCode q ↔ r = q :=
  (Function.LeftInverse.injective namedW_wCode).eq_iff

/-! ### When each part of the decoder answers an instruction (R122, R123, R131, R132) -/

section
variable {f : Fields} {r : Except Illegal Instr} {x : BitVec 4} {i j : Instr}

@[simp] theorem reservedZero_eq_ok {zero : Bool} : reservedZero zero r = .ok i ↔ zero = true ∧ r = .ok i := by
  cases zero <;> simp [reservedZero]

@[simp] theorem formatN_eq_ok :
    formatN f r = .ok i ↔ (f.a = 0 ∧ f.b = 0 ∧ f.c = 0 ∧ f.z = 0 ∧ f.i = 0) ∧ r = .ok i := by
  simp [formatN, and_assoc]

@[simp] theorem formatR1_eq_ok : formatR1 f r = .ok i ↔ (f.b = 0 ∧ f.c = 0 ∧ f.z = 0 ∧ f.i = 0) ∧ r = .ok i := by
  simp [formatR1, and_assoc]

@[simp] theorem formatR2_eq_ok : formatR2 f r = .ok i ↔ (f.c = 0 ∧ f.z = 0 ∧ f.i = 0) ∧ r = .ok i := by
  simp [formatR2, and_assoc]

@[simp] theorem formatR3_eq_ok : formatR3 f r = .ok i ↔ (f.z = 0 ∧ f.i = 0) ∧ r = .ok i := by
  simp [formatR3]

@[simp] theorem formatM_eq_ok : formatM f r = .ok i ↔ (f.b = 0 ∧ f.c = 0 ∧ f.z = 0) ∧ r = .ok i := by
  simp [formatM, and_assoc]

@[simp] theorem formatJ_eq_ok : formatJ f r = .ok i ↔ (f.a = 0 ∧ f.b = 0 ∧ f.c = 0 ∧ f.z = 0) ∧ r = .ok i := by
  simp [formatJ, and_assoc]

@[simp] theorem formatBR_eq_ok : formatBR f r = .ok i ↔ (f.a = 0 ∧ f.z = 0) ∧ r = .ok i := by
  simp [formatBR]

@[simp] theorem wField_eq {k : WReg → Except Illegal Instr} : wField x k = k (namedW x) := rfl

/-- The decoder's test of bit 3, as a mask. -/
theorem dField_eq {k : DReg → Except Illegal Instr} :
    dField x k = if x &&& 8#4 = 0#4 then k (namedD x) else .error .dField := by
  have hbit : x.getLsbD 3 = true ↔ ¬ x &&& 8#4 = 0#4 := by revert x; decide
  simp only [dField, hbit, ite_not, namedD]

@[simp] theorem dField_eq_ok {k : DReg → Except Illegal Instr} :
    dField x k = .ok i ↔ x &&& 8#4 = 0#4 ∧ k (namedD x) = .ok i := by
  rw [dField_eq]
  split <;> simp [*]

/-- DDEC's clause: the instruction, unless it is refused. -/
theorem ite_error_eq_ok {p : Prop} [Decidable p] {e : Illegal} :
    (if p then .error e else .ok j : Except Illegal Instr) = .ok i ↔ ¬ p ∧ j = i := by
  split <;> simp [*]

end

/-! ### Instructions and words -/

/-- Settles O1: the decoder reads each field of the word back, and DDEC's clause is its well-formedness. -/
theorem decodeOfEncodeIsTheInstruction : Obligations.DecodeOfEncodeIsTheInstruction := by
  intro i hwf
  cases i with
  | ddec h l a =>
    have hne : h ≠ l := by simpa [Instr.wf] using hwf
    simp [encode, decode, dCode_and_eight, hne]
  | _ => simp [encode, decode, dCode_and_eight]

/-- Settles O2: an assigned opcode's format and typed fields determine every field of the word. -/
theorem decodedWordIsItsEncoding : Obligations.DecodedWordIsItsEncoding := by
  intro w i h
  rcases hf : fieldsOf w with ⟨op, a, b, c, z, n⟩
  simp only [decode, hf] at h
  split at h
  case h_43 => cases h
  all_goals
    next hop =>
    obtain rfl := eq_ofNat_of_toNat_eq hop
    simp only [formatN_eq_ok, formatR1_eq_ok, formatR2_eq_ok, formatR3_eq_ok, formatM_eq_ok, formatJ_eq_ok,
      formatBR_eq_ok, wField_eq, dField_eq_ok, ite_error_eq_ok, Except.ok.injEq] at h
    casesm* _ ∧ _
    subst i
    simp [*, Instr.wf, encode, wordOf_eq_iff, dCode_namedD]

/-- Settles O4: each word and each instruction by evaluation. -/
theorem workedEncodingsDecode : Obligations.WorkedEncodingsDecode :=
  ⟨⟨rfl, rfl⟩, ⟨rfl, rfl⟩, ⟨rfl, rfl⟩, ⟨rfl, rfl⟩, ⟨rfl, rfl⟩⟩

/-! ### The opcode table (R126) -/

open EncodeMatchesRow in
/-- The word of every instruction matches the instruction's row. -/
theorem encode_matchesRow (i : Instr) : EncodeMatchesRow.Statement i := by
  cases i
  exacts [nop, halt, fclr, frd _, krd _, kwr _, ldw _ _, stw _ _, ldd _ _, std _ _, movw _ _, dmov _ _, dneg _ _,
    dmk _ _ _, ddec _ _ _, split _ _, tsum _ _ _, ftsum _ _ _, daddw _ _ _, dadd _ _ _, dsub _ _ _, tprod _ _ _,
    tsqr _ _, dsqr _ _, dmulw _ _ _, dmul _ _ _, ddivw _ _ _, ddiv _ _ _, rred _ _, epolyP _ _, epolyM _ _,
    tcombP _ _, tcombM _ _, lcorrP _ _, lcorrM _ _, rsclP _ _, rsclM _ _, expx2 _ _, expmx2 _ _, jmp _,
    bflt _ _ _, bfeq _ _ _]

theorem eq_ddec_of_mnemonic {i : Instr} (h : i.mnemonic = "DDEC") : ∃ wh wl a, i = .ddec wh wl a := by
  cases i with
  | ddec wh wl a => exact ⟨wh, wl, a, rfl⟩
  | _ => simp [Instr.mnemonic] at h

/-- A well-formed DDEC names two word registers in its fields A and B (R132(d)). -/
theorem fields_ne_of_ddec {i : Instr} (hwf : i.wf = true) (h : i.mnemonic = "DDEC") :
    (fieldsOf (encode i)).a ≠ (fieldsOf (encode i)).b := by
  obtain ⟨wh, wl, a, rfl⟩ := eq_ddec_of_mnemonic h
  simpa [Instr.wf, encode] using hwf

/-- A match of a row is what the row's format and typed fields ask of the word. -/
theorem exists_decode_of_matchesRow {w : Half} {r : OpcodeRow} (hr : r ∈ opcodeTable) (hw : w &&& r.mask = r.pattern)
    (hddec : r.mnemonic = "DDEC" → (fieldsOf w).a ≠ (fieldsOf w).b) :
    ∃ i, decode w = .ok i ∧ i.mnemonic = r.mnemonic := by
  rw [and_eq_iff_fields] at hw
  rcases hf : fieldsOf w with ⟨op, a, b, c, z, n⟩
  simp only [hf] at hw hddec
  fin_cases hr
  all_goals
    simp only [fieldsOf, BitVec.reduceExtractLsb', and_255, and_fifteen, BitVec.and_zero, Fields.mk.injEq, true_and,
      and_true] at hw
    obtain ⟨rfl, hw⟩ := hw
    simp [decode, hf, hw, hddec]
    rfl

/-- Settles O3: a word that decodes is an encoding, which matches its row; a match of a row decodes. -/
theorem decodeAgreesWithOpcodeTable : Obligations.DecodeAgreesWithOpcodeTable := by
  intro w name
  constructor
  · rintro ⟨i, hdec, rfl⟩
    obtain ⟨hwf, rfl⟩ := decodedWordIsItsEncoding w i hdec
    obtain ⟨r, hr, hname, hmatch⟩ := encode_matchesRow i
    exact ⟨r, hr, hname, hmatch, fields_ne_of_ddec hwf⟩
  · rintro ⟨r, hr, rfl, hmatch, hddec⟩
    exact exists_decode_of_matchesRow hr hmatch hddec

end Sys2Proof.Laws
end

section
/-! PROOFS. The fault of an illegal word (30_encoding.md R132; 60_exceptions.md R402). -/

namespace Sys2Proof.Machine

theorem takesFault_takeFault (s : State) (c : Cause) (word : Half) : TakesFault s (s.takeFault c word) c word := by
  simp [TakesFault, KeepsW, KeepsD, KeepsDmem, State.readW, State.readD]

theorem fetchDecode_of_illegal {s : State} {w : Half} {e : Illegal} (hpc : s.pc.toNat < Config.imemWords)
    (hread : s.imemRead s.pc.toNat = some w) (hdec : decode w = .error e) :
    fetchDecode s = .error (.next (s.takeFault .illegal w)) := by
  simp [fetchDecode, Nat.not_le.mpr hpc, hread, hdec]

/-- Settles O7: the fetch ends in fault entry with the word, and fault entry keeps everything but the fault record. -/
theorem illegalWordTakesIllegalFault : Obligations.IllegalWordTakesIllegalFault := by
  intro s w e hrun hhost hpc hread hdec
  have hfetch := fetchDecode_of_illegal hpc hread hdec
  exact ⟨_, by simp only [step, hhost, coreStep, hrun, if_true, hfetch], takesFault_takeFault s .illegal w⟩

end Sys2Proof.Machine
end

section
/-! PROOFS. The instructions of the DD kernel (40_dd_kernel.md): each completes with the pair of its sequence of primitives
and the flags of every primitive in it. -/

namespace Sys2Proof.Machine

/-! ### Completion -/

/-- The end of a DD instruction (R15, R44, R48): its result and its flags, and nothing else but PC. -/
theorem writesD_completeD (s : State) (d : DReg) (x : Raised DD) :
    WritesD s ((s.writeD d x.val).raiseFlags x.flags).advance d x.val x.flags := by
  refine ⟨by simp, fun r hr => ?_, by simp, by simp, by simp [KeepsW], by simp, by simp [KeepsDmem],
    by simp [KeepsControl]⟩
  simp [State.readD_writeD_of_ne s d r x.val hr]

/-- An instruction that completes with x has x's pair v for its result and x's accumulated flags f. -/
theorem exec_writesD {i : Instr} {s : State} {d : DReg} {x : Raised DD} {v : DD} {f : Flags}
    (hx : exec i s = completeD s d x) (hv : x.val = v) (hf : x.flags = f) :
    ∃ t, exec i s = .next t ∧ WritesD s t d v f := by
  subst hv hf
  exact ⟨_, hx, writesD_completeD s d x⟩

/-! ### The statements about the kernel's instructions

Each result is the value of the function that `exec` completes with. Its accumulator nests to the right, and the
statements list the flags in the order of the primitives. -/

/-- Settles O34: the pairs of `splitWord`, `twoSum` and `fastTwoSum`. -/
theorem splitAndSumResults : Obligations.SplitAndSumResults := by
  intro s d wa wb
  refine ⟨exec_writesD rfl rfl ?split, exec_writesD rfl rfl ?tsum, exec_writesD rfl rfl ?ftsum⟩
  case split => simp [splitWord, BitVec.or_assoc]
  case tsum => simp [twoSum, BitVec.or_assoc]
  case ftsum => simp [fastTwoSum, BitVec.or_assoc]

/-- Settles O35: DADD and DSUB complete with one sequence, DSUB on the negated second operand. -/
theorem ddAddResults : Obligations.DDAddResults := by
  intro s d da db wb
  refine ⟨exec_writesD rfl rfl ?daddw, exec_writesD rfl rfl ?dadd, exec_writesD rfl rfl ?dsub⟩
  case daddw => simp [ddAddW, BitVec.or_assoc]
  case dadd => simp [ddAdd, BitVec.or_assoc]
  case dsub => simp [ddSub, ddNeg, ddAdd, BitVec.or_assoc]

/-- Settles O36: `twoSqr` is the sequence of `twoProd` on one word twice. -/
theorem wordProductResults : Obligations.WordProductResults := by
  intro s d wa wb
  refine ⟨exec_writesD rfl rfl ?tprod, exec_writesD rfl rfl ?tsqr, rfl⟩
  case tprod => simp [twoProd]
  case tsqr => simp [twoSqr]

/-- Settles O37: the pairs of `ddSqr`, `ddMulW` and `ddMul`. -/
theorem ddMultiplyResults : Obligations.DDMultiplyResults := by
  intro s d da db wb
  refine ⟨exec_writesD rfl rfl ?dsqr, exec_writesD rfl rfl ?dmulw, exec_writesD rfl rfl ?dmul⟩
  case dsqr => simp [ddSqr, BitVec.or_assoc]
  case dmulw => simp [ddMulW, BitVec.or_assoc]
  case dmul => simp [ddMul, BitVec.or_assoc]

/-- Settles O38: the pairs of `ddDivW` and `ddDiv`, whose sequences have no case for a zero divisor. -/
theorem ddDivideResults : Obligations.DDDivideResults := by
  intro s d da db wb
  refine ⟨exec_writesD rfl rfl ?ddivw, exec_writesD rfl rfl ?ddiv⟩
  case ddivw => simp [ddDivW, BitVec.or_assoc]
  case ddiv => simp [ddDiv, BitVec.or_assoc]

/-- Settles O39: DNEG leaves the first operand, which is another register, and the flags as they are, so that DADD
adds what DSUB adds. -/
theorem dsubIsDnegThenDadd : Obligations.DsubIsDnegThenDadd := by
  intro s d a b x hxa
  obtain ⟨t, ht, hsub, -, hsubFlags, -⟩ := exec_writesD (i := .dsub d a b) (s := s) rfl rfl rfl
  obtain ⟨s₁, hs₁, hneg, hkept, hnegFlags, -⟩ := exec_writesD (i := .dneg x b) (s := s) rfl rfl rfl
  obtain ⟨u, hu, hadd, -, haddFlags, -⟩ := exec_writesD (i := .dadd d a x) (s := s₁) rfl rfl rfl
  rw [hkept a hxa.symm, hneg] at hadd haddFlags
  refine ⟨t, u, ht, by simp [execAll, nextOf, hs₁, hu], hsub.trans hadd.symm, ?_⟩
  rw [hsubFlags, haddFlags, hnegFlags]
  simp [ddSub]

end Sys2Proof.Machine
end

section
/-! PROOFS. The product and its residual (40_dd_kernel.md R212, R219(c)). The residual of a rounded product is a multiple
of the product's own last unit and at most half an ulp of the rounded word, so it has at most 53 bits: it is
the value of a word, and the FMA that forms it rounds nothing away. -/

namespace Sys2Proof.Machine

/-! ### Words of a given value -/

/-- A magnitude with a sign. -/
def withSign (neg : Bool) (mag : Nat) : Int := if neg then -(mag : Int) else mag

theorem withSign_mul (neg : Bool) (x y : Nat) : withSign neg (x * y) = withSign neg x * y := by
  cases neg <;> simp [withSign]

theorem natAbs_withSign_sub (neg : Bool) (x y : Nat) :
    (withSign neg x - withSign neg y).natAbs = ((x : Int) - y).natAbs := by
  cases neg
  · rfl
  · simp only [withSign, if_true]; omega

theorem isZero_zeroOf (neg : Bool) : isZero (zeroOf neg) = true := by cases neg <;> decide

theorem valUnits_eq_withSign (x : Word) : valUnits x = withSign (signBit x) (magUnits x) := rfl

theorem valUnits_signed_of_finite (neg : Bool) {k : Nat} (hk : k < 2047 * 2 ^ 52) :
    valUnits (signed neg k) = withSign neg (unitsOf k) := by
  rw [valUnits_eq_withSign, signBit_signed neg (by omega), magUnits_signed_of_finite neg hk]

theorem natAbs_valUnits (x : Word) : (valUnits x).natAbs = magUnits x := by
  rw [valUnits]
  split <;> simp

theorem valUnits_neg_iff {x : Word} (hz : isZero x = false) : valUnits x < 0 ↔ signBit x = true := by
  have hne : magUnits x ≠ 0 := by simp [magUnits_eq_zero_iff, hz]
  rw [valUnits]
  split
  · next hs => simp only [hs, iff_true]; omega
  · next hs => simp only [hs, Bool.false_eq_true, iff_false]; omega

/-- A finite word has the value v. -/
def Representable (v : Int) : Prop := ∃ x : Word, isNaN x = false ∧ isInf x = false ∧ valUnits x = v

theorem representable_of_natAbs_eq_unitsOf {v : Int} {k : Nat} (hk : k < 2047 * 2 ^ 52) (hv : v.natAbs = unitsOf k) :
    Representable v := by
  refine ⟨signed (decide (v < 0)) k, isNaN_signed_of_finite _ hk, isInf_signed_of_finite _ hk, ?_⟩
  rw [valUnits_signed_of_finite _ hk, ← hv]
  simp only [withSign, decide_eq_true_eq]
  split <;> omega

theorem representable_zero : Representable 0 := ⟨0, by decide, by decide, by decide⟩

/-- Every number of at most 53 bits, times a power of two, is the magnitude of some magnitude bits. -/
theorem exists_unitsOf_eq (n : Nat) : ∀ {d : Nat}, d ≤ 2 ^ 53 → ∃ k, unitsOf k = d * 2 ^ n := by
  induction n with
  | zero => exact fun {d} hd => ⟨0 * 2 ^ 52 + d, unitsOf_pattern hd (.inl rfl)⟩
  | succ n ih =>
    intro d hd
    by_cases hnormal : 2 ^ 52 ≤ d
    · exact ⟨(n + 1) * 2 ^ 52 + d, unitsOf_pattern hd (.inr hnormal)⟩
    · obtain ⟨k, hk⟩ := ih (d := d * 2) (by omega)
      exact ⟨k, by rw [hk, pow_succ']; ring⟩

/-- A number of at most 53 bits at or above the least exponent, up to 2^972, is representable. -/
theorem representable_of_natAbs_eq_mul {v : Int} {d n e : Nat} (hd : d ≤ 2 ^ 53) (hv : v.natAbs = d * 2 ^ n)
    (he : e < 2047) (hle : v.natAbs ≤ 2 ^ e) : Representable v := by
  obtain ⟨k, hk⟩ := exists_unitsOf_eq n hd
  rw [← hk] at hv
  have hlt : unitsOf k < unitsOf ((e + 1) * 2 ^ 52) := by
    rw [unitsOf_binade, ← hv]
    have := Nat.two_pow_pos e
    omega
  rw [unitsOf_strictMono.lt_iff_lt] at hlt
  exact representable_of_natAbs_eq_unitsOf (hlt.trans_le (Nat.mul_le_mul_right _ he)) hv

/-- RN of an exact sum is exact where the sum is representable. -/
theorem valUnits_roundSum_of_representable {v : Int} (h : Representable v) (zneg : Bool) {den : Nat} (hden : 0 < den) :
    valUnits (roundSum zneg (v * den) den).val = v := by
  obtain ⟨x, hnan, hinf, rfl⟩ := h
  cases hz : isZero x with
  | true =>
    rw [(valUnits_eq_zero_iff x).mpr hz, zero_mul, roundSum, if_pos rfl]
    cases zneg <;> decide
  | false =>
    have hne : valUnits x ≠ 0 := by simp [valUnits_eq_zero_iff, hz]
    have hsign : decide (valUnits x * den < 0) = signBit x := by
      rw [Bool.eq_iff_iff, decide_eq_true_eq, ← valUnits_neg_iff hz, mul_neg_iff]
      omega
    have hmag : (valUnits x * den).natAbs = magUnits x * den := by
      rw [Int.natAbs_mul, Int.natAbs_natCast, natAbs_valUnits]
    rw [roundSum_of_ne_zero _ _ (by positivity), hsign, hmag,
      representableValuesRoundToThemselves x den hden hnan hinf hz]

/-! ### The residual of a rounding -/

/-- Rounding to an integer errs by at most one half. -/
theorem nearestEven_error {num den : Nat} (hden : 0 < den) :
    2 * (((nearestEven num den * den : Nat) : Int) - num).natAbs ≤ den := by
  have hdiv := Nat.div_add_mod' num den
  have hmod := Nat.mod_lt num hden
  have hmid : (2 * (num / den) + 1) * den = 2 * (num / den * den) + den := by ring
  obtain ⟨hq, hle, -⟩ | ⟨hq, hle, -⟩ := nearestEven_cases num den
  · rw [hq]
    omega
  · rw [hq, add_mul, one_mul]
    omega

/-- `round53` of an integer x errs by at most half a unit 2^e of its significand, and has e above 0 only where x fills
the 53 bits of the significand. -/
theorem round53_error {x den m e : Nat} (hden : 0 < den) (h : round53 (x * den) den = (m, e)) :
    2 * (((m * 2 ^ e : Nat) : Int) - x).natAbs ≤ 2 ^ e ∧ (e = 0 ∨ 2 ^ 52 * 2 ^ e ≤ x) := by
  obtain ⟨e', heq, -, hnorm⟩ := round53_cases (x * den) den
  obtain ⟨rfl, rfl⟩ : nearestEven (x * den) (den * 2 ^ e') = m ∧ e' = e := by simpa [heq] using h
  have herr := nearestEven_error (num := x * den) (show 0 < den * 2 ^ e' by positivity)
  generalize nearestEven (x * den) (den * 2 ^ e') = q at herr ⊢
  constructor
  · have hscale : ((q * (den * 2 ^ e') : Nat) : Int) - (x * den : Nat) = ((q * 2 ^ e' : Nat) - x) * den := by
      push_cast
      ring
    rw [hscale, Int.natAbs_mul, Int.natAbs_natCast, mul_comm den, ← mul_assoc] at herr
    exact Nat.le_of_mul_le_mul_right herr hden
  · refine hnorm.imp_right fun hq => ?_
    rwa [mul_comm den, Nat.mul_div_mul_right _ _ hden, Nat.le_div_iff_mul_le (by positivity)] at hq

/-- The residual of a number N·2^n, N of 106 bits, rounded to 53 bits has no more than 53 bits above 2^n: it is a
multiple of 2^n, and 0 unless the rounding drops bits above 2^n. -/
theorem round53_residual {N n den m e : Nat} (hN : N < 2 ^ 106) (hden : 0 < den)
    (h : round53 (N * 2 ^ n * den) den = (m, e)) :
    ∃ d, d ≤ 2 ^ 53 ∧ (((m * 2 ^ e : Nat) : Int) - (N * 2 ^ n : Nat)).natAbs = d * 2 ^ n := by
  obtain ⟨herr, hnorm⟩ := round53_error hden h
  have hdvd {i : Nat} (hie : i ≤ e) (hin : i ≤ n) : 2 ^ i ∣ (((m * 2 ^ e : Nat) : Int) - (N * 2 ^ n : Nat)).natAbs := by
    rw [← Int.natCast_dvd]
    exact dvd_sub (Int.natCast_dvd_natCast.mpr ((pow_dvd_pow 2 hie).mul_left m))
      (Int.natCast_dvd_natCast.mpr ((pow_dvd_pow 2 hin).mul_left N))
  obtain hle | hlt := le_or_gt e n
  · have hpos := Nat.two_pow_pos e
    exact ⟨0, by simp, by rw [Nat.eq_zero_of_dvd_of_lt (hdvd le_rfl hle) (by omega), zero_mul]⟩
  · obtain ⟨d, hd⟩ := hdvd hlt.le le_rfl
    rw [hd] at herr
    have hwide : 2 ^ 52 * 2 ^ e ≤ N * 2 ^ n := hnorm.resolve_left (by omega)
    refine ⟨d, ?_, by rw [hd, mul_comm]⟩
    have hbound : 2 ^ 53 * d * 2 ^ n < 2 ^ 106 * 2 ^ n :=
      calc 2 ^ 53 * d * 2 ^ n = 2 ^ 52 * (2 * (2 ^ n * d)) := by ring
        _ ≤ 2 ^ 52 * 2 ^ e := Nat.mul_le_mul_left _ herr
        _ ≤ N * 2 ^ n := hwide
        _ < 2 ^ 106 * 2 ^ n := Nat.mul_lt_mul_of_pos_right hN (by positivity)
    have := Nat.lt_of_mul_lt_mul_right hbound
    omega

/-- A finite result of RN is the word of the significand and exponent of `round53`. -/
theorem roundRN_of_finite {neg : Bool} {num den : Nat} (h : isInf (roundRN neg num den).val = false) :
    ∃ m e, round53 num den = (m, e) ∧ e * 2 ^ 52 + m < 2047 * 2 ^ 52 ∧
      (roundRN neg num den).val = signed neg (e * 2 ^ 52 + m) := by
  obtain ⟨m, e, hme⟩ : ∃ m e, round53 num den = (m, e) := ⟨_, _, rfl⟩
  refine ⟨m, e, hme, ?_⟩
  simp only [roundRN, hme] at h ⊢
  split at h
  · simp [isInf_infOf] at h
  · next hfin =>
    refine ⟨by omega, ?_⟩
    rw [if_neg hfin]
    split <;> rfl

/-- The residual of RN, for a magnitude of 106 bits at or above the least exponent, is representable. -/
theorem roundRN_residual {neg : Bool} {N n den : Nat} (hN : N < 2 ^ 106) (hden : 0 < den)
    (hfin : isInf (roundRN neg (N * 2 ^ n * den) den).val = false) :
    isNaN (roundRN neg (N * 2 ^ n * den) den).val = false ∧
      Representable (withSign neg (N * 2 ^ n) - valUnits (roundRN neg (N * 2 ^ n * den) den).val) := by
  obtain ⟨m, e, hme, hlt, hval⟩ := roundRN_of_finite hfin
  obtain ⟨d, hd, hres⟩ := round53_residual hN hden hme
  obtain ⟨herr, -⟩ := round53_error hden hme
  obtain ⟨-, hunits⟩ := round53_roundsTo hden hme
  rw [hval, valUnits_signed_of_finite neg hlt, hunits]
  have habs : (withSign neg (N * 2 ^ n) - withSign neg (m * 2 ^ e)).natAbs =
      (((m * 2 ^ e : Nat) : Int) - (N * 2 ^ n : Nat)).natAbs := by rw [natAbs_withSign_sub]; omega
  exact ⟨isNaN_signed_of_finite neg hlt,
    representable_of_natAbs_eq_mul hd (habs.trans hres) (show e < 2047 by omega) (by rw [habs]; omega)⟩

/-! ### The product of two words -/

theorem magUnits_eq_mul_two_pow (a : Word) : ∃ m, m < 2 ^ 53 ∧ magUnits a = m * 2 ^ (expField a - 1) := by
  have hfrac : fracField a < 2 ^ 52 := by rw [fracField_eq]; exact Nat.mod_lt _ (by positivity)
  rw [magUnits]
  split
  · next he => exact ⟨fracField a, by omega, by simp [he]⟩
  · exact ⟨2 ^ 52 + fracField a, by omega, rfl⟩

theorem valUnits_mul (a b : Word) :
    valUnits a * valUnits b = withSign (signBit a != signBit b) (magUnits a * magUnits b) := by
  simp only [valUnits, withSign]
  cases signBit a <;> cases signBit b <;> simp

/-- With exponents that add up to at least −969 the product is a 106-bit multiple of 2^−1074. -/
theorem magUnits_mul_eq {a b : Word} (h : 1077 ≤ expField a + expField b) :
    ∃ N n, N < 2 ^ 106 ∧ magUnits a * magUnits b = N * 2 ^ n * 2 ^ 1074 := by
  obtain ⟨m, hm, ha⟩ := magUnits_eq_mul_two_pow a
  obtain ⟨m', hm', hb⟩ := magUnits_eq_mul_two_pow b
  obtain ⟨n, hn⟩ : ∃ n, expField a - 1 + (expField b - 1) = n + 1074 := ⟨_, (Nat.sub_add_cancel (by omega)).symm⟩
  refine ⟨m * m', n, ?_, ?_⟩
  · calc m * m' < 2 ^ 53 * 2 ^ 53 := Nat.mul_lt_mul'' hm hm'
      _ = 2 ^ 106 := by rw [← pow_add]
  · rw [ha, hb, mul_mul_mul_comm, ← pow_add, hn, pow_add]
    simp only [mul_assoc]

section
variable {a b : Word} (ha : isNaN a = false) (hia : isInf a = false) (hb : isNaN b = false) (hib : isInf b = false)
include ha hia hb hib

/-- The rounding residual of a finite product is representable where the product is a multiple of 2^−1074. -/
theorem fmul_residual (hexp : 1077 ≤ expField a + expField b) (hfin : isInf (fmul a b).val = false) :
    isNaN (fmul a b).val = false ∧
      ∃ v, Representable v ∧ valUnits a * valUnits b = (valUnits (fmul a b).val + v) * 2 ^ 1074 := by
  have hmul := fmul_of_numbers ha hb
  rw [hia, hib, Bool.or_false, if_neg (by decide)] at hmul
  cases hz : isZero a || isZero b with
  | true =>
    have hp : (fmul a b).val = zeroOf (signBit a != signBit b) := by rw [hmul, if_pos hz]; rfl
    rw [hp, (valUnits_mul_eq_zero_iff a b).mpr hz, (valUnits_eq_zero_iff _).mpr (isZero_zeroOf _)]
    exact ⟨isNaN_of_isZero (isZero_zeroOf _), 0, representable_zero, (zero_mul _).symm⟩
  | false =>
    obtain ⟨N, n, hN, hprod⟩ := magUnits_mul_eq hexp
    rw [if_neg (by simp [hz]), hprod] at hmul
    rw [hmul] at hfin ⊢
    obtain ⟨hnan, hres⟩ := roundRN_residual hN (by positivity) hfin
    refine ⟨hnan, _, hres, ?_⟩
    rw [valUnits_mul, hprod, add_sub_cancel, withSign_mul, Nat.cast_pow, Nat.cast_ofNat]

/-- The FMA of a product and a finite addend that leave a representable value gives that value. -/
theorem valUnits_fma_of_representable {c : Word} (hc : isNaN c = false) (hic : isInf c = false) {v : Int}
    (hv : Representable v) (h : valUnits a * valUnits b + valUnits c * 2 ^ 1074 = v * 2 ^ 1074) :
    valUnits (fma a b c).val = v := by
  have hround := valUnits_roundSum_of_representable hv (den := 2 ^ 1074)
    ((signBit a != signBit b) && signBit c) (by positivity)
  rw [Nat.cast_pow, Nat.cast_ofNat] at hround
  rw [fma_of_numbers (zeroTimesInf_of_finite hia hib) ha hb hc, fmaNumbers_of_finite hia hib hic, h, hround]

end

/-- Settles O58: the FMA of TPROD is given the residual of the product, which is representable. -/
theorem twoProdIsExact : Obligations.TwoProdIsExact := by
  intro a b ha hia hb hib hexp hfin
  obtain ⟨hnan, v, hv, hres⟩ := fmul_residual ha hia hb hib hexp hfin
  have hlo : valUnits (fma a b (fneg (fmul a b).val)).val = v :=
    valUnits_fma_of_representable ha hia hb hib (by simp [hnan]) (by simp [hfin]) hv
      (by rw [hres, valUnits_fneg, ← add_mul, add_neg_cancel_comm])
  show valUnits (fmul a b).val * 2 ^ 1074 + valUnits (fma a b (fneg (fmul a b).val)).val * 2 ^ 1074 = _
  rw [hlo, hres, ← add_mul]

end Sys2Proof.Machine
end

section
/-! PROOFS. The single steps of the exp pipeline (41_exp_pipeline.md R261 to R270) as instructions: what each completes
with, and the RANGE faults of RRED and RSCL. The two variants of a step are one proof over `Variant`. -/

namespace Sys2Proof.Machine

/-! ### The two variants of an instruction (30_encoding.md R125) -/

/-- EPOLY of a variant. -/
def epolyOf : Variant → DReg → WReg → Instr
  | .P => .epolyP
  | .M => .epolyM

/-- TCOMB of a variant. -/
def tcombOf : Variant → DReg → DReg → Instr
  | .P => .tcombP
  | .M => .tcombM

/-- LCORR of a variant. -/
def lcorrOf : Variant → DReg → WReg → Instr
  | .P => .lcorrP
  | .M => .lcorrM

/-- RSCL of a variant. -/
def rsclOf : Variant → WReg → DReg → Instr
  | .P => .rsclP
  | .M => .rsclM

/-- EXPX2 for `.P`, EXPMX2 for `.M`. -/
def expOf : Variant → WReg → WReg → Instr
  | .P => .expx2
  | .M => .expmx2

section
variable (v : Variant) (s : State)

theorem exec_epolyOf (d : DReg) (a : WReg) :
    exec (epolyOf v d a) s = completeD s d (epoly (s.poly v) v (s.readW a)) := by
  cases v <;> rfl

theorem exec_tcombOf (d a : DReg) :
    exec (tcombOf v d a) s = completeD s d (tcomb v (indexOf s.k) (s.readD a)) := by
  cases v <;> rfl

theorem exec_lcorrOf (d : DReg) (a : WReg) :
    exec (lcorrOf v d a) s = completeD s d (lcorr v (s.readW a)) := by
  cases v <;> rfl

theorem exec_rsclOf (d : WReg) (a : DReg) :
    exec (rsclOf v d a) s =
      if rsclAdmits (s.readD a).hi then completeW s d (rscl v (s.readD a).hi (quotientOf s.k))
      else faultOf s .range (rsclOf v d a) := by
  cases v <;> rfl

theorem exec_expOf (d a : WReg) :
    exec (expOf v d a) s = completeW s d (expSquare (s.poly v) v (s.readW a)) := by
  cases v <;> rfl

end

/-! ### Completion -/

/-- The end of a word instruction (R15, R42, R48): its result and its flags, and nothing else but PC. -/
theorem writesW_completeW (s : State) (d : WReg) (x : Raised Word) :
    WritesW s ((s.writeW d x.val).raiseFlags x.flags).advance d x.val x.flags := by
  refine ⟨by simp, fun r hr => ?_, by simp, by simp, by simp [KeepsD], by simp, by simp [KeepsDmem],
    by simp [KeepsControl]⟩
  simp [State.readW_writeW_of_ne s d r x.val hr]

/-- An instruction that completes with x has x's word v for its result and x's accumulated flags f. -/
theorem exec_writesW {i : Instr} {s : State} {d : WReg} {x : Raised Word} {v : Word} {f : Flags}
    (hx : exec i s = completeW s d x) (hv : x.val = v) (hf : x.flags = f) :
    ∃ t, exec i s = .next t ∧ WritesW s t d v f := by
  subst hv hf
  exact ⟨_, hx, writesW_completeW s d x⟩

/-- An instruction that faults takes the fault with its own word (R402). -/
theorem exec_takesFault {i : Instr} {s : State} {c : Cause} (hx : exec i s = faultOf s c i) :
    ∃ t, exec i s = .next t ∧ TakesFault s t c (encode i) :=
  ⟨_, hx, takesFault_takeFault s c (encode i)⟩

/-! ### RRED (R261) -/

theorem rredAdmits_iff (y : Word) :
    rredAdmits y = true ↔ isNaN y = false ∧ 0 ≤ valUnits y ∧ valUnits y ≤ valUnits romRredMax := by
  simp [rredAdmits, and_assoc]

theorem exec_rred_of_admits {s : State} (d : DReg) {a : DReg} (h : rredAdmits (s.readD a).hi = true) :
    exec (.rred d a) s =
      completeD (s.writeK (BitVec.ofNat 32 (rred (s.readD a)).val.1)) d
        ⟨(rred (s.readD a)).val.2, (rred (s.readD a)).flags⟩ := by
  simp only [exec, execRred, h, if_true]
  rfl

theorem exec_rred_of_not_admits {s : State} (d : DReg) {a : DReg} (h : rredAdmits (s.readD a).hi = false) :
    exec (.rred d a) s = faultOf s .range (.rred d a) := by
  simp [exec, execRred, h]

/-- Settles O40: past its check RRED writes K and completes with the residual. -/
theorem rredResult : Obligations.RredResult := by
  intro s d a y hnan hpos hmax x kf rh ph pl u v e r
  have hadmits := (rredAdmits_iff y.hi).mpr ⟨hnan, hpos, hmax⟩
  have hflags : (rred y).flags = x.flags ||| kf.flags ||| rh.flags ||| ph.flags ||| pl.flags ||| u.flags |||
      v.flags ||| e.flags ||| r.flags := by
    simp [rred, x, kf, rh, ph, pl, u, v, e, r, BitVec.or_assoc]
  refine ⟨_, exec_rred_of_admits d hadmits, ?_, rfl⟩
  rw [← hflags]
  exact writesD_completeD s d ⟨(rred y).val.2, (rred y).flags⟩

/-! ### RSCL's check (R270) -/

theorem rsclAdmits_iff (h : Word) : rsclAdmits h = true ↔ expField h ≠ 0 ∧ expField h ≠ 2047 := by
  simp [rsclAdmits]

theorem exec_rsclOf_of_admits (v : Variant) {s : State} (d : WReg) {a : DReg}
    (h : rsclAdmits (s.readD a).hi = true) :
    exec (rsclOf v d a) s = completeW s d (rscl v (s.readD a).hi (quotientOf s.k)) := by
  rw [exec_rsclOf, if_pos h]

theorem exec_rsclOf_of_not_admits (v : Variant) {s : State} (d : WReg) {a : DReg}
    (h : rsclAdmits (s.readD a).hi = false) : exec (rsclOf v d a) s = faultOf s .range (rsclOf v d a) := by
  rw [exec_rsclOf, if_neg (by simp [h])]

/-- Settles O41: the operands that the checks of RRED and RSCL refuse. -/
theorem rangeFaults : Obligations.RangeFaults := by
  refine ⟨fun s d a h => ?rred, fun s d a h => ?rscl⟩
  case rred =>
    refine exec_takesFault (exec_rred_of_not_admits d ?_)
    rw [← Bool.not_eq_true, rredAdmits_iff]
    rintro ⟨hnan, hpos, hmax⟩
    obtain h | h | h := h
    · simp [hnan] at h
    · exact hpos.not_gt h
    · exact hmax.not_gt h
  case rscl =>
    have hrefused : rsclAdmits (s.readD a).hi = false := by
      rw [← Bool.not_eq_true, rsclAdmits_iff]
      tauto
    exact ⟨exec_takesFault (exec_rsclOf_of_not_admits .P d hrefused),
      exec_takesFault (exec_rsclOf_of_not_admits .M d hrefused)⟩

/-! ### EPOLY, TCOMB and LCORR (R262 to R267) -/

/-- Settles O42: `epoly` with the coefficients of the variant, and its flags in the order of the primitives. -/
theorem epolyResults : Obligations.EpolyResults := by
  intro s d wa
  refine ⟨exec_writesD rfl rfl ?plus, exec_writesD rfl rfl ?minus⟩
  case plus => simp [epoly, horner, signFor, State.poly, BitVec.or_assoc]
  case minus => simp [epoly, horner, signFor, State.poly, BitVec.or_assoc]

theorem indexOf_eq (k : Half) : indexOf k = k.toNat % 32 := by
  simp [indexOf, BitVec.extractLsb'_toNat]

theorem quotientOf_eq (k : Half) : quotientOf k = k.toNat / 32 := by
  have hk := k.isLt
  simp only [quotientOf, BitVec.extractLsb'_toNat, Nat.shiftRight_eq_div_pow]
  omega

theorem getElem?_eq_some_getD {α : Type} {l : List α} {j : Nat} (h : j < l.length) (d : α) :
    l[j]? = some (l.getD j d) := by
  rw [List.getD_eq_getElem _ _ h, List.getElem?_eq_getElem h]

/-- Settles O43: TCOMB takes the entry of K[4:0], which both tables have. -/
theorem tcombLcorrResults : Obligations.TcombLcorrResults := by
  intro s d da wa comb corr j
  have hj : indexOf s.k = j := indexOf_eq s.k
  have hlt : j < 32 := Nat.mod_lt _ (by decide)
  refine ⟨?tcombP, ?tcombM, exec_writesD rfl rfl ?lcorrP, exec_writesD rfl rfl ?lcorrM⟩
  case tcombP =>
    obtain ⟨t, ht⟩ := exec_writesD (exec_tcombOf .P s d da) rfl rfl
    rw [hj] at ht
    exact ⟨romTable .P j, t, getElem?_eq_some_getD hlt _, ht⟩
  case tcombM =>
    obtain ⟨t, ht⟩ := exec_writesD (exec_tcombOf .M s d da) rfl rfl
    rw [hj] at ht
    exact ⟨romTable .M j, t, getElem?_eq_some_getD hlt _, ht⟩
  case lcorrP => simp [lcorr, signFor, corr, BitVec.or_assoc]
  case lcorrM => simp [lcorr, signFor, corr, BitVec.or_assoc]

end Sys2Proof.Machine
end

section
/-! PROOFS. The primitives under a change of sign (00_scope.md R14, R16): a product keeps its word when both factors
change theirs, and RN of the negated value is the negated word. -/

namespace Sys2Proof.Machine

/-! ### Words -/

theorem isSNaN_of_number {a : Word} (ha : isNaN a = false) : isSNaN a = false := by simp [isSNaN, ha]

theorem fneg_signed (neg : Bool) {mag : Nat} (h : mag < 2 ^ 63) : fneg (signed neg mag) = signed (!neg) mag :=
  word_ext (by simp only [signBit_fneg, signBit_signed _ h]) (by simp only [magBits_fneg, magBits_signed _ h])

theorem isNaN_quietNaN {a : Word} (ha : isNaN a = true) : isNaN (quietNaN a) = true := by
  rw [isNaN_iff] at ha ⊢
  refine ha.trans_le ?_
  rw [magBits, magBits, quietNaN, BitVec.toNat_or, Nat.or_mod_two_pow]
  exact Nat.left_le_or

/-! ### RN -/

theorem isNaN_roundRN (neg : Bool) {num den : Nat} (hden : 0 < den) : isNaN (roundRN neg num den).val = false := by
  obtain ⟨-, h⟩ | ⟨-, k, -, hk, h⟩ := roundRN_val_cases neg (num := num) hden <;> rw [h]
  · exact isNaN_infOf neg
  · exact isNaN_signed_of_finite neg hk

/-- RN of the negated value is the negated word, with the same flags. -/
theorem roundRN_not (neg : Bool) (num den : Nat) :
    roundRN (!neg) num den = ⟨fneg (roundRN neg num den).val, (roundRN neg num den).flags⟩ := by
  simp only [roundRN]
  generalize (round53 num den).2 * 2 ^ 52 + (round53 num den).1 = mag
  split
  · rw [infOf, infOf, fneg_signed neg (by decide)]
  · next hfin =>
    rw [← fneg_signed neg (mag := mag) (by omega)]
    split <;> rfl

/-! ### Products of two negated factors -/

section
variable {a b : Word} (ha : isNaN a = false) (hb : isNaN b = false)
include ha hb

theorem fmul_fneg_fneg : fmul (fneg a) (fneg b) = fmul a b := by
  rw [fmul_of_numbers (by simpa) (by simpa), fmul_of_numbers ha hb]
  simp only [isInf_fneg, isZero_fneg, signBit_fneg, magUnits_fneg, Bool.not_bne_not]

theorem fma_fneg_fneg (c : Word) : fma (fneg a) (fneg b) c = fma a b c := by
  have hnumbers : fmaNumbers (fneg a) (fneg b) c = fmaNumbers a b c := by
    simp only [fmaNumbers, isInf_fneg, signBit_fneg, valUnits_fneg, Bool.not_bne_not, neg_mul_neg]
  have hzero : zeroTimesInf (fneg a) (fneg b) = zeroTimesInf a b := by simp [zeroTimesInf]
  rw [fma, fma, hnumbers, hzero]
  simp [withNaN, snanFlag, isSNaN_of_number, ha, hb]

end

/-- A square does not see the sign of its operand. -/
theorem twoSqr_fneg {a : Word} (ha : isNaN a = false) : twoSqr (fneg a) = twoSqr a := by
  simp [twoSqr, fmul_fneg_fneg ha ha, fma_fneg_fneg ha ha]

end Sys2Proof.Machine
end

section
/-! PROOFS. EXPX2 and EXPMX2 (41_exp_pipeline.md R290 to R297): the screening of x², its exits, and the full path past
it. Both functions are one proof over `Variant`. -/

namespace Sys2Proof.Machine

/-! ### The accumulator and the flags -/

section
variable {α β : Type}

/-- Only the first result reaches the second computation. -/
theorem Raised.andThen_congr {x : Raised α} {f g : α → Raised β} (h : f x.val = g x.val) :
    x.andThen f = x.andThen g :=
  Raised.eq_of_val_flags (by simp [h]) (by simp [h])

theorem Raised.andThen_assoc {γ : Type} (x : Raised α) (f : α → Raised β) (g : β → Raised γ) :
    (x.andThen f).andThen g = x.andThen fun a => (f a).andThen g :=
  Raised.eq_of_val_flags rfl (BitVec.or_assoc _ _ _)

theorem Raised.quiet_andThen (a : α) (f : α → Raised β) : (Raised.quiet a).andThen f = f a :=
  Raised.eq_of_val_flags rfl BitVec.zero_or

end

theorem flagIf_not (b : Bool) (f : Flags) : flagIf (!b) f = if b then 0 else f := by cases b <;> rfl

/-! ### Screening (R291, R292) -/

theorem isNaN_fmul_self {x : Word} (hx : isNaN x = false) : isNaN (fmul x x).val = false := by
  rw [fmul_of_numbers hx hx]
  split
  · next hinf =>
    have hz : isZero x = false := isZero_of_isInf (by simpa using hinf)
    simpa [hz] using isNaN_infOf _
  · split
    · exact isNaN_of_isZero (isZero_zeroOf _)
    · exact isNaN_roundRN _ (by positivity)

theorem flt_of_numbers {a b : Word} (ha : isNaN a = false) (hb : isNaN b = false) :
    flt a b = .quiet (decide (valUnits a < valUnits b)) := by
  simp [flt, quietCompare, snanFlag_pair, isSNaN_of_number, ha, hb, Raised.quiet]

theorem isNaN_trivialBelow (v : Variant) : isNaN (trivialBelow v) = false := by cases v <;> decide

theorem isNaN_saturatedAbove (v : Variant) : isNaN (saturatedAbove v) = false := by cases v <;> decide

theorem trivialBelow_pos (v : Variant) : 0 ≤ valUnits (trivialBelow v) := by cases v <;> decide +kernel

theorem trivialBelow_lt_saturatedAbove (v : Variant) : valUnits (trivialBelow v) < valUnits (saturatedAbove v) := by
  cases v <;> decide +kernel

theorem saturatedAbove_le_rredMax (v : Variant) : valUnits (saturatedAbove v) ≤ valUnits romRredMax := by
  cases v <;> decide +kernel

/-- x² lies between both thresholds of a function. -/
def Unscreened (v : Variant) (y : Word) : Prop :=
  valUnits (trivialBelow v) ≤ valUnits y ∧ valUnits y ≤ valUnits (saturatedAbove v)

theorem rredAdmits_of_unscreened {v : Variant} {y : Word} (hy : isNaN y = false) (h : Unscreened v y) :
    rredAdmits y = true :=
  (rredAdmits_iff y).mpr ⟨hy, (trivialBelow_pos v).trans h.1, h.2.trans (saturatedAbove_le_rredMax v)⟩

/-- Settles O47: the range that the thresholds leave lies inside RRED's. -/
theorem screenedSquareIsAdmittedByRred : Obligations.ScreenedSquareIsAdmittedByRred := by
  intro v x hx htrivial hsaturated
  have hy := isNaN_fmul_self hx
  rw [← Bool.not_eq_true, flt_val_iff hy (isNaN_trivialBelow v), not_lt] at htrivial
  rw [← Bool.not_eq_true, flt_val_iff (isNaN_saturatedAbove v) hy, not_lt] at hsaturated
  exact rredAdmits_of_unscreened hy ⟨htrivial, hsaturated⟩

/-! ### The four ways through `expSquare` -/

section
variable (cs : Config.Poly) (v : Variant) {x : Word}

theorem expSquare_of_isNaN (hx : isNaN x = true) : expSquare cs v x = ⟨quietNaN x, snanFlag [x, x]⟩ := by
  rw [expSquare, if_pos hx, fadd, withNaN_of_first _ _ hx]

/-- On a number the screening is two comparisons of values, which raise nothing. -/
theorem expSquare_of_number (hx : isNaN x = false) :
    expSquare cs v x = (fmul x x).andThen fun y =>
      if valUnits y < valUnits (trivialBelow v) then .quiet romOne
      else if valUnits (saturatedAbove v) < valUnits y then saturated v x
      else (fma x x (fneg y)).andThen fun yl => expOfSquare cs v ⟨y, yl⟩ := by
  have hy := isNaN_fmul_self hx
  rw [expSquare, if_neg (by simp [hx])]
  refine Raised.andThen_congr ?_
  rw [flt_of_numbers hy (isNaN_trivialBelow v), Raised.quiet_andThen]
  simp only [decide_eq_true_eq]
  rw [flt_of_numbers (isNaN_saturatedAbove v) hy, Raised.quiet_andThen]
  simp only [decide_eq_true_eq]

variable (hx : isNaN x = false)
include hx

theorem expSquare_of_trivial (h : valUnits (fmul x x).val < valUnits (trivialBelow v)) :
    expSquare cs v x = ⟨romOne, (fmul x x).flags⟩ := by
  rw [expSquare_of_number cs v hx]
  exact Raised.eq_of_val_flags (by simp [h]) (by simp [h])

theorem expSquare_of_saturated (h : valUnits (saturatedAbove v) < valUnits (fmul x x).val) :
    expSquare cs v x = ⟨(saturated v x).val, (fmul x x).flags ||| (saturated v x).flags⟩ := by
  have hnot : ¬valUnits (fmul x x).val < valUnits (trivialBelow v) :=
    ((trivialBelow_lt_saturatedAbove v).trans h).not_gt
  rw [expSquare_of_number cs v hx]
  exact Raised.eq_of_val_flags (by simp [h, hnot]) (by simp [h, hnot])

/-- Past the screening the function is the full path on the two words of x². -/
theorem expSquare_of_unscreened (h : Unscreened v (fmul x x).val) :
    expSquare cs v x = (twoSqr x).andThen (expOfSquare cs v) := by
  obtain ⟨hlo, hhi⟩ := h
  simp only [twoSqr, Raised.andThen_assoc, Raised.quiet_andThen]
  exact (expSquare_of_number cs v hx).trans
    (Raised.andThen_congr ((if_neg hlo.not_gt).trans (if_neg hhi.not_gt)))

/-- exp(±x²) does not see the sign of x. -/
theorem expSquare_fneg : expSquare cs v (fneg x) = expSquare cs v x := by
  have hsaturated : saturated v (fneg x) = saturated v x := by cases v <;> simp [saturated]
  rw [expSquare_of_number cs v hx, expSquare_of_number cs v ((isNaN_fneg x).trans hx), fmul_fneg_fneg hx hx,
    hsaturated]
  simp only [fma_fneg_fneg hx hx]

end

/-! ### The full path (R290) -/

/-- The index k and the mantissa M of R290's steps 4 to 8, from x² on. -/
def expMantissa (cs : Config.Poly) (v : Variant) (y : DD) : Raised (Nat × DD) :=
  (rred y).andThen fun kr =>
  (epoly cs v kr.2.hi).andThen fun e =>
  (tcomb v (kr.1 % 32) e).andThen fun m1 =>
  (lcorr v kr.2.lo).andThen fun f =>
  (ddMul m1 f).andThen fun m =>
  .quiet (kr.1, m)

theorem expMantissa_val (cs : Config.Poly) (v : Variant) (y : DD) :
    let kr := (rred y).val
    (expMantissa cs v y).val =
      (kr.1, (ddMul (tcomb v (kr.1 % 32) (epoly cs v kr.2.hi).val).val (lcorr v kr.2.lo).val).val) := by
  simp only [expMantissa, Raised.andThen_val, Raised.quiet_val]

theorem expOfSquare_eq (cs : Config.Poly) (v : Variant) (y : DD) :
    expOfSquare cs v y =
      (expMantissa cs v y).andThen fun km => rescaleMantissa v km.2.hi (km.1 / 32) := by
  simp only [expOfSquare, expMantissa, Raised.andThen_assoc, Raised.quiet_andThen]

/-- Past the screening and on a normal mantissa the last step is RSCL's. -/
theorem expSquare_of_normal (cs : Config.Poly) {v : Variant} {x : Word} (hx : isNaN x = false)
    (hun : Unscreened v (fmul x x).val)
    (h : rsclAdmits (expMantissa cs v (twoSqr x).val).val.2.hi = true) :
    expSquare cs v x = (twoSqr x).andThen fun y =>
      (expMantissa cs v y).andThen fun km => rscl v km.2.hi (km.1 / 32) :=
  (expSquare_of_unscreened cs v hx hun).trans
    (Raised.andThen_congr ((expOfSquare_eq cs v _).trans (Raised.andThen_congr (if_pos h))))

/-! ### The statements about EXPX2 and EXPMX2 -/

/-- The exits of a function, as its instruction shows them. -/
theorem exec_expOf_exits (v : Variant) (s : State) (d a : WReg) :
    let x := s.readW a
    let y := fmul x x
    ∃ t w f, exec (expOf v d a) s = .next t ∧ WritesW s t d w f ∧
      (isNaN x = true → w = quietNaN x ∧ f = if isSNaN x then flagNV else 0) ∧
      (isNaN x = false → valUnits y.val < valUnits (trivialBelow v) → w = romOne ∧ f = y.flags) ∧
      (isNaN x = false → valUnits (saturatedAbove v) < valUnits y.val →
        w = (saturated v x).val ∧ f = y.flags ||| (saturated v x).flags) := by
  intro x y
  refine ⟨_, _, _, exec_expOf v s d a, writesW_completeW s d _, fun hx => ?nan, fun hx h => ?trivial,
    fun hx h => ?saturated⟩
  case nan =>
    rw [expSquare_of_isNaN _ v hx, snanFlag_pair, Bool.or_self]
    exact ⟨rfl, rfl⟩
  case trivial =>
    rw [expSquare_of_trivial _ v hx h]
    exact ⟨rfl, rfl⟩
  case saturated =>
    rw [expSquare_of_saturated _ v hx h]
    exact ⟨rfl, rfl⟩

/-- Settles O45: the exits of both functions, with R293's words and flags for the saturation exit. -/
theorem expScreeningResults : Obligations.ExpScreeningResults := by
  intro s d a x y
  have hplus := exec_expOf_exits .P s d a
  have hminus := exec_expOf_exits .M s d a
  simp only [saturated, flagIf_not] at hplus hminus
  exact ⟨hplus, hminus⟩

/-- Settles O46: the full path, whose last step is RSCL's rescale on a normal mantissa. -/
theorem expFullPathResults : Obligations.ExpFullPathResults := by
  intro s d a hx y path
  have hpath (v : Variant) (cs : Config.Poly) (hcs : s.poly v = cs) (h : Unscreened v y.val.hi)
      (hm : rsclAdmits (path v cs).1 = true) :
      ∃ t, exec (expOf v d a) s = .next t ∧ WritesW s t d (path v cs).2.1 (path v cs).2.2 := by
    have hnormal : rsclAdmits (expMantissa cs v y.val).val.2.hi = true := by rw [expMantissa_val]; exact hm
    have hexp := expSquare_of_normal cs hx h hnormal
    refine exec_writesW (by rw [exec_expOf, hcs, hexp]) ?val ?flags
    case val => simp only [expMantissa_val, path, y, Raised.andThen_val]
    case flags => simp [expMantissa, path, y, BitVec.or_assoc]
  exact ⟨fun hlo hhi => hpath .P s.polyP rfl ⟨hlo, hhi⟩, fun hlo hhi => hpath .M s.polyM rfl ⟨hlo, hhi⟩⟩

/-- Settles O49: both functions read x only through `expSquare`, which does not see its sign. -/
theorem expIsEven : Obligations.ExpIsEven := by
  intro s d a hx s'
  have heven (v : Variant) : ∃ t u, exec (expOf v d a) s = .next t ∧ exec (expOf v d a) s' = .next u ∧
      t.readW d = u.readW d ∧ t.fflags = u.fflags := by
    have hpoly : s'.poly v = s.poly v := by cases v <;> rfl
    refine ⟨_, _, exec_expOf v s d a, exec_expOf v s' d a, ?_⟩
    rw [hpoly, State.readW_writeW_self, expSquare_fneg _ v hx]
    simp [s']
  exact ⟨heven .P, heven .M⟩

end Sys2Proof.Machine
end

section
/-! PROOFS. RSCL (41_exp_pipeline.md R270): RN depends on its argument's ratio only, and each of the four branches is RN of
the scaled value, exact, overflowing, below half of the least subnormal, or rounded by the one multiplication. -/

namespace Sys2Proof.Machine

/-! ### RN of a ratio -/

section
variable (num den : Nat) {c : Nat} (hc : 0 < c)
include hc

theorem nearestEven_mul_right : nearestEven (num * c) (den * c) = nearestEven num den := by
  have hmod : 2 * (num * c % (den * c)) = 2 * (num % den) * c := by rw [Nat.mul_mod_mul_right, mul_assoc]
  simp only [nearestEven, hmod, Nat.mul_div_mul_right _ _ hc, Nat.mul_lt_mul_right hc]

theorem round53_mul_right : round53 (num * c) (den * c) = round53 num den := by
  simp only [round53, Nat.mul_div_mul_right _ _ hc, mul_right_comm den c, nearestEven_mul_right _ _ hc]

theorem roundRN_mul_right (neg : Bool) {den : Nat} (hden : 0 < den) :
    roundRN neg (num * c) (den * c) = roundRN neg num den := by
  have htiny : isTiny (num * c) (den * c) = isTiny num den := by
    rw [Bool.eq_iff_iff, isTiny_iff (by positivity), isTiny_iff hden, ← mul_assoc, ← mul_assoc,
      Nat.mul_lt_mul_right hc]
  simp only [roundRN, round53_mul_right _ _ hc, htiny, ← mul_assoc, Nat.mul_left_inj hc.ne']

end

/-- Equal ratios round alike. -/
theorem roundRN_eq_of_ratio_eq (neg : Bool) {num den num' den' : Nat} (hden : 0 < den) (hden' : 0 < den')
    (h : num * den' = num' * den) : roundRN neg num den = roundRN neg num' den' := by
  rw [← roundRN_mul_right num hden' neg hden, ← roundRN_mul_right num' hden neg hden', h, mul_comm den]

theorem roundRN_of_overflow (neg : Bool) {num den : Nat} (hden : 0 < den) (h : (2 ^ 2098 - 2 ^ 2044) * den ≤ num) :
    roundRN neg num den = ⟨infOf neg, flagOF ||| flagNX⟩ := by
  obtain ⟨k, hround, ⟨-, heq⟩ | ⟨hk, -⟩ | ⟨hk, -⟩⟩ := roundRN_cases neg (num := num) hden
  · exact heq
  all_goals exact absurd ((hround.overflow_iff hden).mpr h) hk.not_ge

/-- Below half of the least subnormal RN gives a zero. -/
theorem roundRN_of_lt_half (neg : Bool) {num den : Nat} (hnum : 0 < num) (h : 2 * num < den) :
    roundRN neg num den = ⟨zeroOf neg, flagUF ||| flagNX⟩ := by
  have hden : 0 < den := by omega
  obtain ⟨k, hround, hcases⟩ := roundRN_cases neg (num := num) hden
  obtain rfl : k = 0 := by
    by_contra hk
    obtain ⟨j, rfl⟩ := Nat.exists_eq_succ_of_ne_zero hk
    have hpos : 0 < midSum j := (Nat.zero_le _).trans_lt ((unitsOf_lt_succ j).trans_le (Nat.le_add_left _ _))
    have hmid : den ≤ midSum j * den := Nat.le_mul_of_pos_left den hpos
    have hbelow := hround.below j rfl
    omega
  have htiny : isTiny num den = true := (isTiny_iff hden).mpr (by omega)
  rw [unitsOf_zero, zero_mul, htiny] at hcases
  obtain ⟨hk, -⟩ | ⟨-, hexact, -⟩ | ⟨-, -, heq⟩ := hcases
  · omega
  · omega
  · exact heq

/-! ### A word with another exponent field -/

theorem expField_withExponent (h : Word) {e : Nat} (he : e < 2048) : expField (withExponent h e) = e := by
  simp only [expField, withExponent, BitVec.extractLsb'_append_eq_of_le, BitVec.extractLsb'_append_eq_right,
    Nat.reduceSub, le_refl, BitVec.toNat_ofNat]
  exact Nat.mod_eq_of_lt he

theorem fracField_withExponent (h : Word) (e : Nat) : fracField (withExponent h e) = fracField h := by
  rw [fracField, withExponent, BitVec.extractLsb'_append_eq_right]
  rfl

theorem signBit_withExponent (h : Word) (e : Nat) : signBit (withExponent h e) = signBit h := by
  simp only [signBit, withExponent, BitVec.getLsbD_append, BitVec.getLsbD_extractLsb']
  rfl

/-- The significand of a normal word, with its leading bit. -/
def significand (h : Word) : Nat := 2 ^ 52 + fracField h

theorem magUnits_of_normal {h : Word} (he : expField h ≠ 0) : magUnits h = significand h * 2 ^ (expField h - 1) :=
  if_neg he

theorem significand_bounds (h : Word) : 2 ^ 52 ≤ significand h ∧ significand h < 2 ^ 53 := by
  have hfrac : fracField h < 2 ^ 52 := by rw [fracField_eq]; exact Nat.mod_lt _ (by positivity)
  rw [significand]
  omega

theorem two_pow_le_significand_mul (h : Word) {n e : Nat} (hn : n ≤ 52 + e) : 2 ^ n ≤ significand h * 2 ^ e :=
  calc 2 ^ n ≤ 2 ^ (52 + e) := Nat.pow_le_pow_right two_pos hn
    _ = 2 ^ 52 * 2 ^ e := pow_add 2 52 e
    _ ≤ significand h * 2 ^ e := Nat.mul_le_mul_right _ (significand_bounds h).1

theorem isNaN_of_expField_ne {h : Word} (he : expField h ≠ 2047) : isNaN h = false := by simp [isNaN, he]

theorem isInf_of_expField_ne {h : Word} (he : expField h ≠ 2047) : isInf h = false := by simp [isInf, he]

theorem isZero_of_expField_ne {h : Word} (he : expField h ≠ 0) : isZero h = false := by simp [isZero, he]

/-! ### The scaled value -/

/-- The numerator of RSCL's factor 2^(±m). -/
def scaleNum : Variant → Nat → Nat
  | .P, m => 2 ^ m
  | .M, _ => 1

/-- The denominator of RSCL's factor 2^(±m). -/
def scaleDen : Variant → Nat → Nat
  | .P, _ => 1
  | .M, m => 2 ^ m

theorem scaleDen_pos (v : Variant) (m : Nat) : 0 < scaleDen v m := by cases v <;> simp [scaleDen]

theorem scaleNum_pos (v : Variant) (m : Nat) : 0 < scaleNum v m := by cases v <;> simp [scaleNum]

/-- The exponent field e' lies j above RSCL's target when the scaled power of two, times 2^j, is that of e'. -/
theorem scaled_two_pow {v : Variant} {h : Word} {m e' j : Nat} (he : expField h ≠ 0) (he' : 1 ≤ e')
    (htarget : (e' : Int) = rsclTarget v h m + j) :
    2 ^ (expField h - 1) * scaleNum v m * 2 ^ j = 2 ^ (e' - 1) * scaleDen v m := by
  cases v
  all_goals
    simp only [rsclTarget] at htarget
    rw [scaleNum, scaleDen, mul_one, ← pow_add, ← pow_add]
    congr 1
    omega

theorem magUnits_withExponent {h : Word} {e' : Nat} (he' : 1 ≤ e') (hlt : e' < 2048) :
    magUnits (withExponent h e') = significand h * 2 ^ (e' - 1) := by
  rw [magUnits_of_normal (by rw [expField_withExponent h hlt]; omega), expField_withExponent h hlt, significand,
    fracField_withExponent, significand]

section
variable {v : Variant} {h : Word} {m : Nat} (he : expField h ≠ 0)
include he

theorem scaled_magUnits {e' j : Nat} (he' : 1 ≤ e') (htarget : (e' : Int) = rsclTarget v h m + j) :
    magUnits h * scaleNum v m * 2 ^ j = significand h * 2 ^ (e' - 1) * scaleDen v m := by
  rw [magUnits_of_normal he, mul_assoc _ _ (scaleDen v m), ← scaled_two_pow he he' htarget]
  simp only [mul_assoc]

/-- The scaled value of a target that is an exponent of normal numbers is representable. -/
theorem roundRN_scaled_of_normal {e' : Nat} (hpos : 1 ≤ e') (hlt : e' < 2047) (htarget : (e' : Int) = rsclTarget v h m) :
    roundRN (signBit h) (magUnits h * scaleNum v m) (scaleDen v m) = .quiet (withExponent h e') := by
  have hscaled := scaled_magUnits he hpos (htarget.trans (add_zero _).symm)
  rw [pow_zero, mul_one] at hscaled
  have hexp := expField_withExponent h (e := e') (by omega)
  rw [hscaled, ← magUnits_withExponent hpos (by omega), ← signBit_withExponent h e']
  exact representableValuesRoundToThemselves _ _ (scaleDen_pos v m) (isNaN_of_expField_ne (by omega))
    (isInf_of_expField_ne (by omega)) (isZero_of_expField_ne (by omega))

/-- A target above the exponents of normal numbers overflows. -/
theorem roundRN_scaled_of_overflow (htarget : 2047 ≤ rsclTarget v h m) :
    roundRN (signBit h) (magUnits h * scaleNum v m) (scaleDen v m) = ⟨infOf (signBit h), flagOF ||| flagNX⟩ := by
  obtain ⟨e', he'⟩ := Int.eq_ofNat_of_zero_le (show 0 ≤ rsclTarget v h m by omega)
  have hscaled := scaled_magUnits he (by omega) (he'.symm.trans (add_zero _).symm)
  rw [pow_zero, mul_one] at hscaled
  refine roundRN_of_overflow _ (scaleDen_pos v m) ?_
  rw [hscaled]
  refine Nat.mul_le_mul_right _ ?_
  exact (Nat.sub_le _ _).trans (two_pow_le_significand_mul h (by omega))

/-- A target of −1022 or less lies below half of the least subnormal. -/
theorem roundRN_scaled_of_underflow (htarget : rsclTarget v h m + 1022 < 1) :
    roundRN (signBit h) (magUnits h * scaleNum v m) (scaleDen v m) = ⟨zeroOf (signBit h), flagUF ||| flagNX⟩ := by
  obtain ⟨j, hj⟩ := Int.eq_ofNat_of_zero_le (show 0 ≤ 1 - rsclTarget v h m by omega)
  have hscaled := scaled_magUnits (v := v) (m := m) he (j := j) le_rfl (by omega)
  obtain ⟨hlo, hhi⟩ := significand_bounds h
  have hpos : 0 < magUnits h * scaleNum v m := by
    have := scaleNum_pos v m
    have : 0 < magUnits h := by rw [magUnits_of_normal he]; positivity
    positivity
  have hj : 2 ^ 55 ≤ 2 ^ j := Nat.pow_le_pow_right two_pos (by omega)
  refine roundRN_of_lt_half _ hpos ?_
  refine Nat.lt_of_mul_lt_mul_right (a := 2 ^ 53) ?_
  calc 2 * (magUnits h * scaleNum v m) * 2 ^ 53 ≤ magUnits h * scaleNum v m * 2 ^ 55 := by omega
    _ ≤ magUnits h * scaleNum v m * 2 ^ j := Nat.mul_le_mul_left _ hj
    _ = significand h * scaleDen v m := by rw [hscaled, Nat.sub_self, pow_zero, mul_one]
    _ < scaleDen v m * 2 ^ 53 := by rw [mul_comm]; exact Nat.mul_lt_mul_of_pos_left hhi (scaleDen_pos v m)

/-- The multiplication by 2^−1022 rounds the scaled value once. -/
theorem fmul_withExponent {e' : Nat} (hpos : 1 ≤ e') (hlt : e' < 2047) (htarget : (e' : Int) = rsclTarget v h m + 1022) :
    fmul (withExponent h e') romTwoM1022 =
      roundRN (signBit h) (magUnits h * scaleNum v m) (scaleDen v m) := by
  have hexp := expField_withExponent h (e := e') (by omega)
  have hscaled := scaled_magUnits he (j := 1022) hpos htarget
  have hunit : magUnits romTwoM1022 = 2 ^ 52 := by decide +kernel
  rw [fmul_of_numbers (isNaN_of_expField_ne (by omega)) (by decide), isInf_of_expField_ne (by omega),
    isZero_of_expField_ne (by omega), hunit, signBit_withExponent, magUnits_withExponent hpos (by omega),
    if_neg (by decide), if_neg (by decide), show signBit romTwoM1022 = false by decide, Bool.bne_false]
  refine roundRN_eq_of_ratio_eq _ (by positivity) (scaleDen_pos v m) ?_
  rw [mul_right_comm, ← hscaled, mul_assoc _ (2 ^ 1022), ← pow_add]

/-- Each branch of RSCL is RN of the scaled value, with RN's flags. -/
theorem rscl_eq_roundRN : rscl v h m = roundRN (signBit h) (magUnits h * scaleNum v m) (scaleDen v m) := by
  simp only [rscl]
  split
  · next hnormal => exact (roundRN_scaled_of_normal he (by omega) (by omega) (by omega)).symm
  · split
    · next hover => exact (roundRN_scaled_of_overflow he hover).symm
    · split
      · next hunder => exact (roundRN_scaled_of_underflow he hunder).symm
      · exact fmul_withExponent he (by omega) (by omega) (by omega)

end

/-- Settles O44: RSCL completes with RN of the scaled value. -/
theorem rsclRoundsTheScaledValue : Obligations.RsclRoundsTheScaledValue := by
  intro s d a h m hzero hmax
  have hadmits := (rsclAdmits_iff h).mpr ⟨hzero, hmax⟩
  have hrscl (v : Variant) :
      exec (rsclOf v d a) s = completeW s d (roundRN (signBit h) (magUnits h * scaleNum v m) (scaleDen v m)) := by
    rw [exec_rsclOf_of_admits v d hadmits, quotientOf_eq, rscl_eq_roundRN hzero]
  have hminus := hrscl .M
  rw [scaleNum, mul_one] at hminus
  exact ⟨exec_writesW (hrscl .P) rfl rfl, exec_writesW hminus rfl rfl⟩

end Sys2Proof.Machine
end

section
/-! PROOFS. EPOLY's variants with the default coefficients (41_exp_pipeline.md R262, R263; 10_state.md R63). The
coefficients of odd degree change their sign from `.P` to `.M`, so that two Horner steps of `.M` on r are two of `.P` on −r:
the word between them is the negated one, up to NaNs and exact zeros. -/

namespace Sys2Proof.Machine

/-! ### One step on each side -/

/-- Two results with the same flags and opposite words; a NaN is the same on both sides, and zeros may have any sign. -/
inductive Mirrors : Raised Word → Raised Word → Prop where
  | nan (x : Raised Word) (hx : isNaN x.val = true) : Mirrors x x
  | neg (x : Raised Word) (hx : isNaN x.val = false) : Mirrors x ⟨fneg x.val, x.flags⟩
  | zero (x y : Raised Word) (hx : isZero x.val = true) (hy : isZero y.val = true) (hf : x.flags = y.flags) :
    Mirrors x y

theorem Mirrors.ofNeg {w : Word} (f : Flags) (hw : isNaN w = false) : Mirrors ⟨fneg w, f⟩ ⟨w, f⟩ := by
  have h := Mirrors.neg ⟨fneg w, f⟩ ((isNaN_fneg w).trans hw)
  rwa [fneg_fneg] at h

theorem fneg_infOf (neg : Bool) : fneg (infOf neg) = infOf (!neg) := fneg_signed neg (by decide)

theorem Mirrors.ofInvalid : Mirrors invalid invalid := .nan _ (by decide)

/-- Exact sums of opposite values mirror. -/
theorem roundSum_neg_mirrors (zneg zneg' : Bool) (v : Int) {den : Nat} (hden : 0 < den) :
    Mirrors (roundSum zneg v den) (roundSum zneg' (-v) den) := by
  by_cases hv : v = 0
  · have hexact (z : Bool) : roundSum z 0 den = ⟨zeroOf z, 0⟩ := if_pos rfl
    rw [hv, neg_zero, hexact, hexact]
    exact .zero _ _ (isZero_zeroOf zneg) (isZero_zeroOf zneg') rfl
  · have hsign : decide (-v < 0) = !decide (v < 0) := by
      rw [Bool.eq_not, ne_eq, decide_eq_decide]
      omega
    rw [roundSum_of_ne_zero _ _ hv, roundSum_of_ne_zero _ _ (neg_ne_zero.mpr hv), Int.natAbs_neg, hsign, roundRN_not]
    exact .neg _ (isNaN_roundRN _ hden)

section
variable {b c : Word} (hb : isNaN b = false) (hc : isNaN c = false)
include hb hc

/-- FMA with a NaN first operand beside numbers. -/
theorem fma_of_isNaN_left {a : Word} (ha : isNaN a = true) : fma a b c = ⟨quietNaN a, flagIf (isSNaN a) flagNV⟩ := by
  rw [fma_of_not_zeroTimesInf (zeroTimesInf_of_isNaN_left ha), withNaN_of_first _ _ ha]
  simp [snanFlag, isSNaN_of_number, hb, hc]

/-- Opposite factors and opposite addends: the results mirror, whatever the common factor. -/
theorem fma_mirrors (a : Word) : Mirrors (fma a b (fneg c)) (fma a (fneg b) c) := by
  have hnb : isNaN (fneg b) = false := (isNaN_fneg b).trans hb
  have hnc : isNaN (fneg c) = false := (isNaN_fneg c).trans hc
  cases ha : isNaN a with
  | true =>
    rw [fma_of_isNaN_left hb hnc ha, fma_of_isNaN_left hnb hc ha]
    exact .nan _ (isNaN_quietNaN ha)
  | false =>
    have hzero : zeroTimesInf a (fneg b) = zeroTimesInf a b := by simp [zeroTimesInf]
    cases hz : zeroTimesInf a b with
    | true =>
      rw [fma_of_zeroTimesInf hz hnc, fma_of_zeroTimesInf (hzero.trans hz) hc]
      exact .ofInvalid
    | false =>
      rw [fma_of_numbers hz ha hb hnc, fma_of_numbers (hzero.trans hz) ha hnb hc]
      have hleft (n s : Bool) : ((!n) != s) = !(n != s) := by revert n s; decide
      have hright (n s : Bool) : (n != !s) = !(n != s) := by revert n s; decide
      have hsum : valUnits a * valUnits (fneg b) + valUnits c * 2 ^ 1074 =
          -(valUnits a * valUnits b + valUnits (fneg c) * 2 ^ 1074) := by
        rw [valUnits_fneg, valUnits_fneg]
        generalize (2 : Int) ^ 1074 = unit
        ring
      simp only [fmaNumbers, isInf_fneg, signBit_fneg, hsum, hleft, hright, ← fneg_infOf]
      split
      · split
        · exact .ofInvalid
        · exact .neg _ (isNaN_infOf _)
      · split
        · exact .ofNeg 0 hc
        · exact roundSum_neg_mirrors _ _ _ (by positivity)

/-- A zero product vanishes beside a nonzero addend, whatever its sign. -/
theorem fma_of_isZero_left {a : Word} (ha : isZero a = true) (hcz : isZero c = false) (hci : isInf c = false) :
    fma a b c = if isInf b then invalid
      else roundRN (decide (valUnits c * 2 ^ 1074 < 0)) (valUnits c * 2 ^ 1074).natAbs (2 ^ 1074) := by
  have hne : valUnits c * 2 ^ 1074 ≠ 0 := mul_ne_zero (by simp [valUnits_eq_zero_iff, hcz]) (by positivity)
  split
  · next hib => exact fma_of_zeroTimesInf (by simp [zeroTimesInf, ha, hib]) hc
  · next hib =>
    rw [Bool.not_eq_true] at hib
    rw [fma_of_numbers (zeroTimesInf_of_finite (isInf_of_isZero ha) hib) (isNaN_of_isZero ha) hb hc,
      fmaNumbers_of_finite (isInf_of_isZero ha) hib hci, (valUnits_eq_zero_iff a).mpr ha, zero_mul, zero_add,
      roundSum_of_ne_zero _ _ hne]

end

/-- A step with equal addends brings mirrored results back together. -/
theorem Mirrors.andThen_fma_eq {x y : Raised Word} (h : Mirrors x y) {b c : Word} (hb : isNaN b = false)
    (hc : isNaN c = false) (hcz : isZero c = false) (hci : isInf c = false) :
    (x.andThen fun p => fma p b c) = y.andThen fun p => fma p (fneg b) c := by
  have hnb : isNaN (fneg b) = false := (isNaN_fneg b).trans hb
  cases h with
  | nan hx => exact Raised.andThen_congr (by rw [fma_of_isNaN_left hb hc hx, fma_of_isNaN_left hnb hc hx])
  | neg hx => exact Raised.eq_of_val_flags (by simp [fma_fneg_fneg hx hb]) (by simp [fma_fneg_fneg hx hb])
  | zero y hx hy hf =>
    have heq : fma x.val b c = fma y.val (fneg b) c := by
      rw [fma_of_isZero_left hb hc hx hcz hci, fma_of_isZero_left hnb hc hy hcz hci, isInf_fneg]
    exact Raised.eq_of_val_flags (by simp [heq]) (by simp [heq, hf])

/-! ### The polynomial -/

/-- What the two steps of `.M` on r make of a word, the two of `.P` on −r make of it too. -/
theorem two_steps_mirror (p : Word) {r c c' : Word} (hr : isNaN r = false) (hc : isNaN c = false)
    (hc' : isNaN c' = false) (hcz : isZero c' = false) (hci : isInf c' = false) :
    ((fma p r (fneg c)).andThen fun q => fma q r c') = (fma p (fneg r) c).andThen fun q => fma q (fneg r) c' :=
  (fma_mirrors hr hc p).andThen_fma_eq hr hc' hcz hci

theorem horner_eq_two_steps (cs : Config.Poly) (r : Word) :
    horner cs r = ((fma cs[0] r cs[1]).andThen fun p => fma p r cs[2]).andThen fun p =>
      (fma p r cs[3]).andThen fun q => fma q r cs[4] := by
  simp only [horner, Raised.andThen_assoc]

theorem horner_mirror {r : Word} (hr : isNaN r = false) : horner romPolyM r = horner romPolyP (fneg r) := by
  have hfirst := two_steps_mirror romPolyP[0] (c := romPolyP[1]) (c' := romPolyP[2]) hr (by decide) (by decide)
    (by decide) (by decide)
  have hsecond (p : Word) := two_steps_mirror p (c := romPolyP[3]) (c' := romPolyP[4]) hr (by decide) (by decide)
    (by decide) (by decide)
  rw [horner_eq_two_steps, horner_eq_two_steps, ← hfirst]
  simp only [← hsecond]
  rfl

/-- Settles O50: the polynomials mirror, the squares are the same, and −r is the last addend on both sides. -/
theorem epolyVariantsMirror : Obligations.EpolyVariantsMirror := by
  intro r hr
  rw [epoly, epoly, horner_mirror hr, twoSqr_fneg hr]
  rfl

end Sys2Proof.Machine
end

section
/-! PROOFS. RRED's index (41_exp_pipeline.md R261, R268). Next to the shifter 1.5·2^52 the words are the integers, so that the
FMA rounds y·INV_L to the nearest integer, and the subtraction of the shifter is exact. -/

namespace Sys2Proof.Machine

/-! ### Rounding next to an even multiple -/

/-- Adding an even number of units moves the nearest integer by it, and a tie stays a tie to the same side. -/
theorem nearestEven_add_mul (num : Nat) {den c : Nat} (hden : 0 < den) (hc : c % 2 = 0) :
    nearestEven (num + c * den) den = nearestEven num den + c := by
  simp only [nearestEven, Nat.add_mul_mod_self_right, Nat.add_mul_div_right _ _ hden]
  split
  · rfl
  · split <;> omega

theorem nearestEven_even_of_tie {num den : Nat} (hden : 0 < den)
    (h : 2 * (((nearestEven num den * den : Nat) : Int) - num).natAbs = den) : nearestEven num den % 2 = 0 := by
  have hdiv := Nat.div_add_mod' num den
  have hmod := Nat.mod_lt num hden
  have hmid : (2 * (num / den) + 1) * den = 2 * (num / den * den) + den := by ring
  obtain ⟨hq, hle, htie⟩ | ⟨hq, hle, htie⟩ := nearestEven_cases num den
  · rw [hq] at h ⊢
    exact htie (by omega)
  · rw [hq] at h ⊢
    rw [add_mul, one_mul] at h
    exact htie (by omega)

/-- In the binade of exponent e the significand is the nearest number of units 2^e. -/
theorem round53_of_binade {num den e : Nat} (hlo : 2 ^ 52 * 2 ^ e ≤ num / den) (hhi : num / den < 2 ^ 53 * 2 ^ e) :
    round53 num den = (nearestEven num (den * 2 ^ e), e) := by
  rw [← pow_add] at hlo hhi
  have hlog : Nat.log2 (num / den) = 52 + e := by
    rw [Nat.log2_eq_iff (by have := Nat.two_pow_pos (52 + e); omega)]
    exact ⟨hlo, by rwa [show 52 + e + 1 = 53 + e by omega]⟩
  rw [round53, hlog, Nat.add_sub_cancel_left]

/-- A number of units 2^e·2^e below the shifter's distance to the next binade, added to the shifter. -/
theorem round53_add_shifter {num e : Nat} (h : num < 2 ^ 51 * (2 ^ e * 2 ^ e)) :
    round53 (num + 3 * 2 ^ 51 * 2 ^ e * 2 ^ e) (2 ^ e) = (nearestEven num (2 ^ e * 2 ^ e) + 3 * 2 ^ 51, e) := by
  have hpos := Nat.two_pow_pos e
  have hquot : (num + 3 * 2 ^ 51 * 2 ^ e * 2 ^ e) / 2 ^ e = num / 2 ^ e + 3 * 2 ^ 51 * 2 ^ e :=
    Nat.add_mul_div_right _ _ hpos
  have hlt : num / 2 ^ e < 2 ^ 51 * 2 ^ e := by rwa [Nat.div_lt_iff_lt_mul hpos, mul_assoc]
  have hbinade := round53_of_binade (num := num + 3 * 2 ^ 51 * 2 ^ e * 2 ^ e) (den := 2 ^ e) (e := e)
  rw [hquot] at hbinade
  generalize num / 2 ^ e = q at hbinade hlt
  rw [hbinade (by omega) (by omega), mul_assoc (3 * 2 ^ 51), nearestEven_add_mul _ (by positivity) (by decide)]

theorem roundRN_val_of_round53 (neg : Bool) {num den m e : Nat} (h : round53 num den = (m, e))
    (hlt : e * 2 ^ 52 + m < 2047 * 2 ^ 52) : (roundRN neg num den).val = signed neg (e * 2 ^ 52 + m) := by
  simp only [roundRN, h]
  rw [if_neg (by omega)]
  split <;> rfl

theorem natAbs_mul_two_pow (k n : Nat) : ((k : Int) * 2 ^ n).natAbs = k * 2 ^ n := by
  rw [Int.natAbs_mul, Int.natAbs_natCast, Int.natAbs_pow]
  rfl

/-! ### The index -/

/-- The integer nearest to val(y)·val(INV_L), ties to even, for a nonnegative y. -/
def rredIndex (y : Word) : Nat := nearestEven (magUnits y * magUnits romInvL) (2 ^ 1074 * 2 ^ 1074)

theorem valUnits_of_nonneg {y : Word} (h : 0 ≤ valUnits y) : valUnits y = magUnits y := by
  rw [← natAbs_valUnits]
  omega

theorem valUnits_romInvL : valUnits romInvL = magUnits romInvL := rfl

theorem valUnits_romShifter : valUnits romShifter = ((3 * 2 ^ 51 * 2 ^ 1074 : Nat) : Int) := by decide +kernel

/-- RRED_MAX·INV_L is below 34400.5. -/
theorem rredMax_mul_invL_lt : 2 * (magUnits romRredMax * magUnits romInvL) < 68801 * (2 ^ 1074 * 2 ^ 1074) := by
  decide +kernel

section
variable {y : Word} (h : rredAdmits y = true)
include h

theorem magUnits_le_of_rredAdmits : magUnits y ≤ magUnits romRredMax := by
  obtain ⟨-, hpos, hmax⟩ := (rredAdmits_iff y).mp h
  rw [valUnits_of_nonneg hpos] at hmax
  exact Int.ofNat_le.mp hmax

theorem isInf_of_rredAdmits : isInf y = false := by
  have hle := magUnits_le_of_rredAdmits h
  rw [magUnits_eq, magUnits_eq, unitsOf_strictMono.le_iff_le] at hle
  rw [← Bool.not_eq_true, isInf_iff]
  exact fun hinf => absurd (hinf ▸ hle) (by decide)

theorem rred_product_lt : 2 * (magUnits y * magUnits romInvL) < 68801 * (2 ^ 1074 * 2 ^ 1074) :=
  (Nat.mul_le_mul_left 2 (Nat.mul_le_mul_right _ (magUnits_le_of_rredAdmits h))).trans_lt rredMax_mul_invL_lt

theorem rredIndex_le : rredIndex y ≤ 34400 := by
  have hlt := rred_product_lt h
  have herr := nearestEven_error (num := magUnits y * magUnits romInvL) (den := 2 ^ 1074 * 2 ^ 1074) (by positivity)
  rw [← rredIndex] at herr
  generalize magUnits y * magUnits romInvL = num at *
  have hunit : 0 < 2 ^ 1074 * 2 ^ 1074 := by positivity
  generalize 2 ^ 1074 * 2 ^ 1074 = unit at *
  by_contra hgt
  have hmul := Nat.mul_le_mul_right unit (not_le.mp hgt)
  omega

/-- The FMA leaves the shifter plus the index. -/
theorem fma_shifter_val :
    (fma y romInvL romShifter).val = signed false (1074 * 2 ^ 52 + (rredIndex y + 3 * 2 ^ 51)) := by
  obtain ⟨hnan, hpos, -⟩ := (rredAdmits_iff y).mp h
  have hinf := isInf_of_rredAdmits h
  have hsum : valUnits y * valUnits romInvL + valUnits romShifter * 2 ^ 1074 =
      ((magUnits y * magUnits romInvL + 3 * 2 ^ 51 * 2 ^ 1074 * 2 ^ 1074 : Nat) : Int) := by
    rw [valUnits_of_nonneg hpos, valUnits_romInvL, valUnits_romShifter]
    simp only [Nat.cast_add, Nat.cast_mul, Nat.cast_pow, Nat.cast_ofNat]
  have hlt : magUnits y * magUnits romInvL < 2 ^ 51 * (2 ^ 1074 * 2 ^ 1074) := by
    have hlt := rred_product_lt h
    generalize 2 ^ 1074 * 2 ^ 1074 = unit at *
    omega
  have hne : magUnits y * magUnits romInvL + 3 * 2 ^ 51 * 2 ^ 1074 * 2 ^ 1074 ≠ 0 :=
    (Nat.add_pos_right _ (by positivity)).ne'
  have hindex := rredIndex_le h
  rw [fma_of_numbers (zeroTimesInf_of_finite hinf (by decide)) hnan (by decide) (by decide),
    fmaNumbers_of_finite hinf (by decide) (by decide), hsum,
    roundSum_of_ne_zero _ _ (Int.natCast_ne_zero.mpr hne), Int.natAbs_natCast,
    decide_eq_false (Int.natCast_nonneg _).not_gt]
  exact roundRN_val_of_round53 false (round53_add_shifter hlt) (show _ + (rredIndex y + _) < _ by omega)

/-- R268(a): kf is the index. -/
theorem valUnits_rred_kf : valUnits (fsub (fma y romInvL romShifter).val romShifter).val = rredIndex y * 2 ^ 1074 := by
  have hindex := rredIndex_le h
  have hfin : 1074 * 2 ^ 52 + (rredIndex y + 3 * 2 ^ 51) < 2047 * 2 ^ 52 := by omega
  have hsum : valUnits (signed false (1074 * 2 ^ 52 + (rredIndex y + 3 * 2 ^ 51))) + valUnits (fneg romShifter) =
      rredIndex y * 2 ^ 1074 * (1 : Nat) := by
    rw [valUnits_signed_of_finite false hfin, unitsOf_pattern (by omega) (by omega), valUnits_fneg,
      valUnits_romShifter]
    simp only [withSign, Bool.false_eq_true, if_false, Nat.cast_mul, Nat.cast_add, Nat.cast_pow, Nat.cast_ofNat]
    generalize (2 : Int) ^ 1074 = unit
    ring
  have habs := natAbs_mul_two_pow (rredIndex y) 1074
  have hle : rredIndex y * 2 ^ 1074 ≤ 2 ^ (16 + 1074) := by
    rw [pow_add]
    exact Nat.mul_le_mul_right _ (by omega)
  have hrep : Representable (rredIndex y * 2 ^ 1074) :=
    representable_of_natAbs_eq_mul (by omega) habs (show 16 + 1074 < 2047 by decide) (habs.trans_le hle)
  rw [fma_shifter_val h, fsub_of_numbers (isNaN_signed_of_finite false hfin) (by decide),
    addNumbers_of_finite (isInf_signed_of_finite false hfin) (by decide), hsum]
  exact valUnits_roundSum_of_representable hrep _ one_pos

end

/-- The index of `rred` is the nearest integer. -/
theorem rred_index {y : DD} (h : rredAdmits y.hi = true) : (rred y).val.1 = rredIndex y.hi := by
  show magUnits (fsub (fma y.hi romInvL romShifter).val romShifter).val / 2 ^ 1074 = _
  rw [← natAbs_valUnits, valUnits_rred_kf h, natAbs_mul_two_pow]
  exact Nat.mul_div_cancel _ (by positivity)

/-- K holds the whole index. -/
theorem rred_index_toNat {y : DD} (h : rredAdmits y.hi = true) :
    (BitVec.ofNat 32 (rred y).val.1).toNat = rredIndex y.hi := by
  have hle := rredIndex_le h
  rw [rred_index h, BitVec.toNat_ofNat]
  exact Nat.mod_eq_of_lt (by omega)

/-- Settles O51: K is the index, and the index is what `nearestEven` says. -/
theorem rredIndexIsExactAndBounded : Obligations.RredIndexIsExactAndBounded := by
  intro s d a hadmits y product
  obtain ⟨-, hpos, -⟩ := (rredAdmits_iff y).mp hadmits
  have hunit : (2 : Int) ^ 2148 = ((2 ^ 1074 * 2 ^ 1074 : Nat) : Int) := by
    rw [← pow_add, Nat.cast_pow, Nat.cast_ofNat]
  have hproduct : product = ((magUnits y * magUnits romInvL : Nat) : Int) := by
    rw [Nat.cast_mul, ← valUnits_romInvL, ← valUnits_of_nonneg hpos]
  have hden : 0 < 2 ^ 1074 * 2 ^ 1074 := by positivity
  have herr := nearestEven_error (num := magUnits y * magUnits romInvL) hden
  have htie := nearestEven_even_of_tie (num := magUnits y * magUnits romInvL) hden
  rw [← rredIndex, Nat.cast_mul] at herr htie
  refine ⟨_, exec_rred_of_admits d hadmits, ?bound, ?exact, ?nearest, ?tie⟩
  all_goals simp only [State.writeK_k, State.writeD_k, State.raiseFlags_k, State.advance_k, rred_index_toNat hadmits]
  case bound => exact rredIndex_le hadmits
  case exact => exact (valUnits_rred_kf hadmits).symm
  all_goals
    rw [hunit, hproduct, Int.abs_eq_natAbs]
    generalize 2 ^ 1074 * 2 ^ 1074 = unit at *
  case nearest => exact_mod_cast herr
  case tie => exact fun h => htie (by exact_mod_cast h)

end Sys2Proof.Machine
end

section
/-! PROOFS. The eight-instruction sequence of 41_exp_pipeline.md R298 and the complete functions: up to RSCL the sequence
leaves the mantissa of `expMantissa`, its index in K and its flags, and RSCL is the last step of both. -/

namespace Sys2Proof.Machine

/-! ### Runs of DD instructions -/

theorem execAll_cons {i : Instr} {s t : State} (h : exec i s = .next t) (is : List Instr) :
    execAll (i :: is) s = execAll is t := by
  simp [execAll, nextOf, h]

theorem execAll_singleton (i : Instr) (s : State) : execAll [i] s = nextOf (exec i s) := by
  rw [execAll]
  cases nextOf (exec i s) <;> rfl

/-- The state that a DD instruction with the result x leaves. -/
def State.afterD (s : State) (d : DReg) (x : Raised DD) : State := ((s.writeD d x.val).raiseFlags x.flags).advance

theorem completeD_eq (s : State) (d : DReg) (x : Raised DD) : completeD s d x = .next (s.afterD d x) := rfl

section
variable (s : State) (d : DReg) (x : Raised DD)

@[simp] theorem State.afterD_k : (s.afterD d x).k = s.k := rfl
@[simp] theorem State.afterD_status : (s.afterD d x).status = s.status := rfl
@[simp] theorem State.afterD_fflags : (s.afterD d x).fflags = s.fflags ||| x.flags := rfl
@[simp] theorem State.poly_afterD (v : Variant) : (s.afterD d x).poly v = s.poly v := by cases v <;> rfl
@[simp] theorem State.readW_afterD (r : WReg) : (s.afterD d x).readW r = s.readW r := rfl
@[simp] theorem State.readD_afterD_self : (s.afterD d x).readD d = x.val := s.readD_writeD_self d x.val

theorem State.readD_afterD_of_ne {r : DReg} (h : r ≠ d) : (s.afterD d x).readD r = s.readD r :=
  s.readD_writeD_of_ne d r x.val h

end

theorem exec_dmul (d a b : DReg) (s : State) :
    exec (.dmul d a b) s = completeD s d (ddMul (s.readD a) (s.readD b)) := rfl

@[simp] theorem State.poly_writeK (s : State) (k : Half) (v : Variant) : (s.writeK k).poly v = s.poly v := by
  cases v <;> rfl

/-- The state that DDEC of x leaves (R205). -/
def State.afterDdec (s : State) (wh wl : WReg) (x : DD) : State := ((s.writeW wh x.hi).writeW wl x.lo).advance

theorem exec_ddec_of_ne {wh wl : WReg} (h : wh ≠ wl) (a : DReg) (s : State) :
    exec (.ddec wh wl a) s = .next (s.afterDdec wh wl (s.readD a)) := by
  simp [exec, execDdec, h, State.afterDdec]

section
variable (s : State) (wh wl : WReg) (x : DD)

@[simp] theorem State.afterDdec_k : (s.afterDdec wh wl x).k = s.k := rfl
@[simp] theorem State.afterDdec_status : (s.afterDdec wh wl x).status = s.status := rfl
@[simp] theorem State.afterDdec_fflags : (s.afterDdec wh wl x).fflags = s.fflags := rfl
@[simp] theorem State.poly_afterDdec (v : Variant) : (s.afterDdec wh wl x).poly v = s.poly v := by cases v <;> rfl
@[simp] theorem State.readW_afterDdec_lo : (s.afterDdec wh wl x).readW wl = x.lo := State.readW_writeW_self _ wl x.lo

theorem State.readW_afterDdec_hi (h : wh ≠ wl) : (s.afterDdec wh wl x).readW wh = x.hi :=
  (State.readW_writeW_of_ne _ wl wh x.lo h).trans (s.readW_writeW_self wh x.hi)

end

theorem execAll_completeD {i : Instr} {s u : State} {d : DReg} {x : Raised DD} (h : exec i s = completeD u d x)
    (is : List Instr) : execAll (i :: is) s = execAll is (u.afterD d x) := execAll_cons h is

/-! ### The sequence (R298) -/

/-- The steps that reduce the square of W0: the residual goes to W1 and W2. -/
def reductionSteps : List Instr := [.tsqr 0 0, .rred 1 0, .ddec 1 2 1]

/-- The steps that put the mantissa together in D5. -/
def mantissaSteps (v : Variant) : List Instr := [epolyOf v 2 1, tcombOf v 3 2, lcorrOf v 4 2, .dmul 5 3 4]

/-- K holds the whole index, so that its fields are the index's quotient and remainder. -/
theorem toNat_rred_index {y : DD} (h : rredAdmits y.hi = true) :
    (BitVec.ofNat 32 (rred y).val.1).toNat = (rred y).val.1 :=
  (rred_index_toNat h).trans (rred_index h).symm

theorem reductionSteps_leave {s : State} {y : Raised DD} (hy : twoSqr (s.readW 0) = y) (h : rredAdmits y.val.hi = true)
    (is : List Instr) :
    ∃ u, execAll (reductionSteps ++ is) s = execAll is u ∧ u.readW 1 = (rred y.val).val.2.hi ∧
      u.readW 2 = (rred y.val).val.2.lo ∧ u.k = BitVec.ofNat 32 (rred y.val).val.1 ∧
      u.fflags = s.fflags ||| (y.flags ||| (rred y.val).flags) ∧ u.status = s.status ∧ ∀ v, u.poly v = s.poly v := by
  have htsqr : exec (.tsqr 0 0) s = completeD s 0 y := hy ▸ rfl
  have hrred := exec_rred_of_admits (s := s.afterD 0 y) 1 (a := 0) (by rwa [State.readD_afterD_self])
  rw [State.readD_afterD_self] at hrred
  have hddec (u : State) (x : Raised DD) :
      exec (.ddec 1 2 1) (u.afterD 1 x) = .next ((u.afterD 1 x).afterDdec 1 2 x.val) := by
    rw [exec_ddec_of_ne (by decide), State.readD_afterD_self]
  refine ⟨_, ((execAll_completeD htsqr _).trans (execAll_completeD hrred _)).trans (execAll_cons (hddec _ _) is),
    State.readW_afterDdec_hi _ 1 2 _ (by decide), State.readW_afterDdec_lo _ 1 2 _, ?k, ?flags, ?status, ?poly⟩
  case k => simp only [State.afterDdec_k, State.afterD_k, State.writeK_k]
  case flags => simp only [State.afterDdec_fflags, State.afterD_fflags, State.writeK_fflags, BitVec.or_assoc]
  case status => simp only [State.afterDdec_status, State.afterD_status, State.writeK_status]
  case poly => exact fun v => by simp only [State.poly_afterDdec, State.poly_afterD, State.poly_writeK]

theorem mantissaSteps_leave (v : Variant) (s : State) (is : List Instr) :
    let e := epoly (s.poly v) v (s.readW 1)
    let m1 := tcomb v (indexOf s.k) e.val
    let c := lcorr v (s.readW 2)
    let m := ddMul m1.val c.val
    ∃ u, execAll (mantissaSteps v ++ is) s = execAll is u ∧ u.readD 5 = m.val ∧ u.k = s.k ∧
      u.fflags = s.fflags ||| (e.flags ||| (m1.flags ||| (c.flags ||| m.flags))) ∧ u.status = s.status := by
  intro e m1 c m
  have htcomb : exec (tcombOf v 3 2) (s.afterD 2 e) = completeD (s.afterD 2 e) 3 m1 := by
    rw [exec_tcombOf, State.readD_afterD_self, State.afterD_k]
  have hdmul : exec (.dmul 5 3 4) (((s.afterD 2 e).afterD 3 m1).afterD 4 c) =
      completeD (((s.afterD 2 e).afterD 3 m1).afterD 4 c) 5 m := by
    rw [exec_dmul, State.readD_afterD_self, State.readD_afterD_of_ne _ _ _ (by decide), State.readD_afterD_self]
  have hlcorr : exec (lcorrOf v 4 2) ((s.afterD 2 e).afterD 3 m1) = completeD ((s.afterD 2 e).afterD 3 m1) 4 c := by
    rw [exec_lcorrOf, State.readW_afterD, State.readW_afterD]
  have hepoly : exec (epolyOf v 2 1) s = completeD s 2 e := exec_epolyOf v s 2 1
  clear_value m c m1 e
  refine ⟨_, ((execAll_completeD hepoly _).trans (execAll_completeD htcomb _)).trans
    ((execAll_completeD hlcorr _).trans (execAll_completeD hdmul is)), State.readD_afterD_self _ 5 m, ?k, ?flags, ?status⟩
  case k => simp only [State.afterD_k]
  case flags => simp only [State.afterD_fflags, BitVec.or_assoc]
  case status => simp only [State.afterD_status]

/-- What the steps before RSCL leave: `expMantissa`'s mantissa and flags, and its index in K. -/
theorem pipelineSteps_leave (v : Variant) {s : State} {y : Raised DD} (hy : twoSqr (s.readW 0) = y)
    (h : rredAdmits y.val.hi = true) (is : List Instr) :
    let m := expMantissa (s.poly v) v y.val
    ∃ u, execAll (reductionSteps ++ (mantissaSteps v ++ is)) s = execAll is u ∧ u.readD 5 = m.val.2 ∧
      u.k = BitVec.ofNat 32 m.val.1 ∧ u.fflags = s.fflags ||| (y.flags ||| m.flags) ∧ u.status = s.status := by
  obtain ⟨u₁, hrun₁, hhi, hlo, hk₁, hflags₁, hstatus₁, hpoly⟩ := reductionSteps_leave hy h (mantissaSteps v ++ is)
  obtain ⟨u₂, hrun₂, hm, hk₂, hflags₂, hstatus₂⟩ := mantissaSteps_leave v u₁ is
  rw [hhi, hlo, hpoly, indexOf_eq, hk₁, toNat_rred_index h] at hm hflags₂
  refine ⟨u₂, hrun₁.trans hrun₂, ?mantissa, ?index, ?flags, hstatus₂.trans hstatus₁⟩
  case mantissa => rw [hm, expMantissa_val]
  case index => rw [hk₂, hk₁, expMantissa_val]
  case flags =>
    rw [hflags₂, hflags₁]
    simp [expMantissa, BitVec.or_assoc]

/-- Where the whole sequence runs through, it leaves the word and the flags of the complete function. -/
theorem pipelineSequence_eq_exp (v : Variant) {s t : State} (hx : isNaN (s.readW 0) = false)
    (hun : Unscreened v (fmul (s.readW 0) (s.readW 0)).val)
    (hrun : execAll (reductionSteps ++ (mantissaSteps v ++ [rsclOf v 5 5])) s = some t) (ht : t.status = .running) :
    ∃ u, exec (expOf v 5 0) s = .next u ∧ t.readW 5 = u.readW 5 ∧ t.fflags = u.fflags ∧
      t.k = BitVec.ofNat 32 (rred (twoSqr (s.readW 0)).val).val.1 ∧ u.k = s.k := by
  have hadmitted : rredAdmits (twoSqr (s.readW 0)).val.hi = true := rredAdmits_of_unscreened (isNaN_fmul_self hx) hun
  generalize hy : twoSqr (s.readW 0) = y at *
  obtain ⟨u, hsteps, hm, hk, hflags, -⟩ := pipelineSteps_leave v hy hadmitted [rsclOf v 5 5]
  rw [hsteps, execAll_singleton] at hrun
  have hindex : (expMantissa (s.poly v) v y.val).val.1 = (rred y.val).val.1 := by rw [expMantissa_val]
  have hquot : quotientOf u.k = (expMantissa (s.poly v) v y.val).val.1 / 32 := by
    rw [quotientOf_eq, hk, hindex, toNat_rred_index hadmitted]
  cases hadmits : rsclAdmits (u.readD 5).hi with
  | false =>
    rw [exec_rsclOf_of_not_admits v 5 hadmits] at hrun
    obtain rfl : u.takeFault .range (encode (rsclOf v 5 5)) = t := Option.some.inj hrun
    cases ht
  | true =>
    rw [exec_rsclOf_of_admits v 5 hadmits, hm, hquot] at hrun
    rw [hm] at hadmits
    have hexp := exec_expOf v s 5 0
    rw [expSquare_of_normal _ hx hun (hy ▸ hadmits), hy] at hexp
    obtain rfl := Option.some.inj hrun
    refine ⟨_, hexp, ?word, ?flags, ?k, ?kept⟩
    case word => simp
    case flags => simp [hflags, BitVec.or_assoc]
    case k => simp [hk, hindex]
    case kept => simp

/-- Settles O48: the sequence of both variants, with the FFLAGS that both sides start from. -/
theorem pipelineSequenceEqualsExp : Obligations.PipelineSequenceEqualsExp := by
  intro s t _ _ hx y k
  exact ⟨fun hlo hhi hrun ht => pipelineSequence_eq_exp .P hx ⟨hlo, hhi⟩ hrun ht,
    fun hlo hhi hrun ht => pipelineSequence_eq_exp .M hx ⟨hlo, hhi⟩ hrun ht⟩

end Sys2Proof.Machine
end

section
/-! PROOFS. The system, move, memory and control instructions (42_data_control.md; 40_dd_kernel.md R203 to R205): each
answers an explicit next state, and what it leaves of the state before is read off that state. -/

namespace Sys2Proof.Machine

/-! ### Frames -/

/-- A state that differs in PC at most keeps everything else. -/
theorem keepsAllButPc_withPc (s : State) (p : BitVec 9) : KeepsAllButPc s { s with pc := p } := by
  simp [KeepsAllButPc, KeepsW, KeepsD, KeepsDmem, KeepsControl, State.readW, State.readD]

/-- The end of an instruction that copies a value to a word register and raises nothing. -/
theorem exec_copiesW {i : Instr} {s : State} {d : WReg} {v : Word} (hx : exec i s = .next (s.writeW d v).advance) :
    ∃ t, exec i s = .next t ∧ WritesW s t d v 0 :=
  exec_writesW (x := .quiet v) (hx.trans (by simp [completeW])) rfl rfl

/-- The end of an instruction that copies a value to a DD register and raises nothing. -/
theorem exec_copiesD {i : Instr} {s : State} {d : DReg} {v : DD} (hx : exec i s = .next (s.writeD d v).advance) :
    ∃ t, exec i s = .next t ∧ WritesD s t d v 0 :=
  exec_writesD (x := .quiet v) (hx.trans (by simp [completeD])) rfl rfl

/-! ### System instructions (R320 to R325) -/

/-- Settles O27: the next state of each, with its one change undone, differs from the state before in PC at most. -/
theorem nopHaltFclrResults : Obligations.NopHaltFclrResults := by
  intro s
  refine ⟨⟨_, rfl, rfl, ?nop⟩, ⟨_, rfl, rfl, rfl, ?halt⟩, ⟨_, rfl, rfl, rfl, ?fclr⟩⟩
  case nop | halt | fclr => exact keepsAllButPc_withPc s _

/-- Settles O28: two copies to a word register, and a copy of a word's low half to K. -/
theorem frdKrdKwrResults : Obligations.FrdKrdKwrResults := by
  intro s r
  have hlow : (s.readW r).setWidth 32 = (s.readW r).extractLsb' 0 32 := BitVec.setWidth_eq_extractLsb' (by decide)
  exact ⟨exec_copiesW rfl, exec_copiesW rfl, ⟨_, rfl, hlow, rfl, keepsAllButPc_withPc s _⟩⟩

/-! ### Loads and stores (R300 to R303) -/

/-- The test of bit 0 is the parity of the address (20_memory.md R85). -/
theorem isOdd_eq (a : BitVec 8) : isOdd a = decide (a.toNat % 2 = 1) := Nat.testBit_zero a.toNat

section
variable {s : State} (d : DReg) {a : BitVec 8}

theorem exec_ldw_of_written (r : WReg) {v : Word} (hv : s.dmemRead (dmemAddress a) = some v) :
    exec (.ldw r a) s = .next (s.writeW r v).advance := by
  simp [exec, execLdw, hv]

theorem exec_ldd_of_odd (h : isOdd a = true) : exec (.ldd d a) s = faultOf s .misaligned (.ldd d a) := by
  simp [exec, execLdd, h]

theorem exec_std_of_odd (h : isOdd a = true) : exec (.std d a) s = faultOf s .misaligned (.std d a) := by
  simp [exec, execStd, h]

theorem exec_ldd_of_written {hi lo : Word} (h : isOdd a = false) (hhi : s.dmemRead (dmemAddress a) = some hi)
    (hlo : s.dmemRead (dmemAddress a + 1) = some lo) :
    exec (.ldd d a) s = .next (s.writeD d ⟨hi, lo⟩).advance := by
  simp [exec, execLdd, h, hhi, hlo]

theorem exec_std_of_even (h : isOdd a = false) :
    exec (.std d a) s =
      .next ((s.dmemWrite (dmemAddress a) (s.readD d).hi).dmemWrite (dmemAddress a + 1) (s.readD d).lo).advance := by
  simp [exec, execStd, h]

end

/-- A write of a DMEM word stores it there and touches no other byte (R12, R83). -/
theorem storesWord_dmemWrite (s : State) (a : Nat) (v : Word) : StoresWord s (s.dmemWrite a v) a v :=
  ⟨s.dmemRead_dmemWrite_self a v, fun b => Memory.readByte_writeLE_outside 8 s.dmem (dmemByte a) v.toNat b⟩

/-- Writes of a DMEM word and of the next one store both and touch no other byte (R84). -/
theorem storesWords_dmemWrite_dmemWrite (s : State) (a : Nat) (v x : Word) :
    ((s.dmemWrite a v).dmemWrite (a + 1) x).dmemRead a = some v ∧
      ((s.dmemWrite a v).dmemWrite (a + 1) x).dmemRead (a + 1) = some x ∧
      ∀ b, b < dmemByte a ∨ dmemByte a + 16 ≤ b →
        ((s.dmemWrite a v).dmemWrite (a + 1) x).dmem.readByte b = s.dmem.readByte b := by
  obtain ⟨hfirst, hkeepsFirst⟩ := storesWord_dmemWrite s a v
  obtain ⟨hnext, hkeepsNext⟩ := storesWord_dmemWrite (s.dmemWrite a v) (a + 1) x
  refine ⟨?first, hnext, fun b hb => ?outside⟩
  case first => rw [State.dmemRead_dmemWrite_of_ne _ _ _ _ (Nat.ne_of_lt a.lt_succ_self), hfirst]
  case outside =>
    have hbytes : dmemByte (a + 1) = dmemByte a + 8 := rfl
    exact (hkeepsNext b (by omega)).trans (hkeepsFirst b (by omega))

/-- Settles O29: the load copies the word, and the store is one write of a DMEM word. -/
theorem ldwStwResults : Obligations.LdwStwResults := by
  intro s r a
  refine ⟨fun v hv => exec_copiesW (exec_ldw_of_written r hv), ⟨_, rfl, ?stored, ?pc, ?frame⟩⟩
  case stored => exact storesWord_dmemWrite s (dmemAddress a) (s.readW r)
  case pc => simp
  case frame => simpa using keepsAllButPc_withPc s (s.pc + 1)

/-- Settles O30: the load copies both words, and the store is a write of two words. -/
theorem lddStdResults : Obligations.LddStdResults := by
  intro s r a ha
  have heven : isOdd a = false := by simp [isOdd_eq, ha]
  obtain ⟨hhi, hlo, hkept⟩ := storesWords_dmemWrite_dmemWrite s (dmemAddress a) (s.readD r).hi (s.readD r).lo
  refine ⟨fun h l hh hl => exec_copiesD (exec_ldd_of_written r heven hh hl),
    ⟨_, exec_std_of_even r heven, ?hi, ?lo, ?outside, ?pc, ?frame⟩⟩
  case hi => exact (State.dmemRead_advance _ _).trans hhi
  case lo => exact (State.dmemRead_advance _ _).trans hlo
  case outside => rw [State.advance_dmem]; exact hkept
  case pc => simp
  case frame => simpa using keepsAllButPc_withPc s (s.pc + 1)

/-- Settles O31: both checks of the address come before any access. -/
theorem oddDDAddressTakesMisaligned : Obligations.OddDDAddressTakesMisaligned := by
  intro s r a ha
  have hodd : isOdd a = true := by simp [isOdd_eq, ha]
  exact ⟨exec_takesFault (exec_ldd_of_odd r hodd), exec_takesFault (exec_std_of_odd r hodd)⟩

/-! ### Moves (R304, R305; 40_dd_kernel.md R203 to R205) -/

theorem exec_ddec_same (r : WReg) (a : DReg) (s : State) :
    exec (.ddec r r a) s = faultOf s .illegal (.ddec r r a) := by
  simp [exec, execDdec]

theorem State.readW_afterDdec_of_ne (s : State) (x : DD) {wh wl r : WReg} (hh : r ≠ wh) (hl : r ≠ wl) :
    (s.afterDdec wh wl x).readW r = s.readW r :=
  (State.readW_writeW_of_ne _ wl r x.lo hl).trans (s.readW_writeW_of_ne wh r x.hi hh)

/-- Settles O32: MOVW, DMOV and DMK copy, and DNEG is `fneg` of each word; DDEC of two registers, and its fault for one
register twice. -/
theorem moveResults : Obligations.MoveResults := by
  intro s w w1 w2 d d1
  refine ⟨exec_copiesW rfl, exec_copiesD rfl, exec_writesD rfl rfl rfl, exec_writesD rfl rfl rfl, fun hne => ?ddec,
    exec_takesFault (exec_ddec_same w1 d s)⟩
  exact ⟨_, exec_ddec_of_ne hne d s, s.readW_afterDdec_hi w1 w2 _ hne, s.readW_afterDdec_lo w1 w2 _,
    fun r hh hl => s.readW_afterDdec_of_ne _ hh hl, rfl, keepsAllButPc_withPc s _⟩

/-! ### Control transfer (R310 to R312) -/

/-- A branch chooses the next PC by its comparison and raises the comparison's flags either way. -/
theorem branchOn_eq (c : Raised Bool) (x : BitVec 8) (s : State) :
    branchOn c x s = .next { s.raiseFlags c.flags with pc := if c.val then x.setWidth 9 else s.pc + 1 } := by
  cases h : c.val <;> simp [branchOn, h, State.advance, State.jumpTo]

/-- An instruction that branches on c goes where c says, with c's accumulated flags f. -/
theorem exec_branches {i : Instr} {s : State} {c : Raised Bool} {x : BitVec 8} {f : Flags}
    (hx : exec i s = branchOn c x s) (hf : c.flags = f) :
    ∃ t, exec i s = .next t ∧ t.pc = (if c.val then x.setWidth 9 else s.pc + 1) ∧ t.fflags = s.fflags ||| f ∧
      KeepsAllButPc s { t with fflags := s.fflags } := by
  subst hf
  exact ⟨_, hx.trans (branchOn_eq c x s), rfl, rfl, keepsAllButPc_withPc s _⟩

/-- Settles O33: the jump, and both branches on a quiet comparison of two words. -/
theorem jumpAndBranchResults : Obligations.JumpAndBranchResults := by
  intro s a b x
  have hflags := snanFlag_pair (s.readW a) (s.readW b)
  exact ⟨⟨_, rfl, rfl, keepsAllButPc_withPc s _⟩, exec_branches rfl hflags, exec_branches rfl hflags⟩

end Sys2Proof.Machine
end

section
/-! PROOFS. Faults and stops (60_exceptions.md R400 to R406, R424): why an instruction faults or stops the model, said once
for all 42 of them, and what a step therefore does to PC and to the fault record. -/

namespace Sys2Proof.Machine

/-! ### Loads of unwritten words (R406) -/

section
variable {s : State} (d : DReg) {a : BitVec 8}

theorem exec_ldw_of_unwritten (r : WReg) (h : s.dmemRead a.toNat = none) :
    exec (.ldw r a) s = .fault (.unwrittenDmem a.toNat) := by
  simp [exec, execLdw, dmemAddress, h]

theorem exec_ldd_of_unwritten_hi (heven : isOdd a = false) (h : s.dmemRead a.toNat = none) :
    exec (.ldd d a) s = .fault (.unwrittenDmem a.toNat) := by
  simp [exec, execLdd, dmemAddress, heven, h]

theorem exec_ldd_of_unwritten_lo {hi : Word} (heven : isOdd a = false) (hhi : s.dmemRead a.toNat = some hi)
    (h : s.dmemRead (a.toNat + 1) = none) : exec (.ldd d a) s = .fault (.unwrittenDmem (a.toNat + 1)) := by
  simp [exec, execLdd, dmemAddress, heven, hhi, h]

end

/-! ### How an instruction ends -/

/-- The instructions that fault, each with its cause and the operand that makes it fault (R400); the ill-formed DDEC is
the model's (log 11). -/
inductive Faults (s : State) : Instr → Cause → Prop where
  | ldd (d : DReg) {a : BitVec 8} (h : isOdd a = true) : Faults s (.ldd d a) .misaligned
  | std (d : DReg) {a : BitVec 8} (h : isOdd a = true) : Faults s (.std d a) .misaligned
  | rred (d : DReg) {a : DReg} (h : rredAdmits (s.readD a).hi = false) : Faults s (.rred d a) .range
  | rscl (v : Variant) (d : WReg) {a : DReg} (h : rsclAdmits (s.readD a).hi = false) : Faults s (rsclOf v d a) .range
  | ddec (r : WReg) (a : DReg) : Faults s (.ddec r r a) .illegal

/-- The instructions that read a DMEM word that nothing has written, each with a word it reads (R406). -/
inductive ReadsUnwritten (s : State) : Instr → Nat → Prop where
  | ldw (r : WReg) {a : BitVec 8} (h : s.dmemRead a.toNat = none) : ReadsUnwritten s (.ldw r a) a.toNat
  | lddHi (d : DReg) {a : BitVec 8} (heven : isOdd a = false) (h : s.dmemRead a.toNat = none) :
    ReadsUnwritten s (.ldd d a) a.toNat
  | lddLo (d : DReg) {a : BitVec 8} (heven : isOdd a = false) (h : s.dmemRead (a.toNat + 1) = none) :
    ReadsUnwritten s (.ldd d a) (a.toNat + 1)

/-- CAUSE, EPC and FINST are unchanged, and STATUS is too unless it becomes HALTED. -/
def TakesNoFault (s t : State) : Prop :=
  (t.status = s.status ∨ t.status = .halted) ∧ t.cause = s.cause ∧ t.epc = s.epc ∧ t.finst = s.finst

/-- How an instruction ends: with the fault it has a reason for, with the model's stop, or complete. -/
inductive Ends (i : Instr) (s : State) : Prop where
  | faulted (c : Cause) (h : Faults s i c) (hx : exec i s = faultOf s c i)
  | stopped (a : Nat) (h : ReadsUnwritten s i a) (hx : exec i s = .fault (.unwrittenDmem a))
  | completed (t : State) (hx : exec i s = .next t) (h : TakesNoFault s t)

section
variable {i : Instr} {s : State}

/-- Completion that leaves the whole fault record as it is. -/
theorem Ends.plain {t : State} (hx : exec i s = .next t) (hstatus : t.status = s.status) (hcause : t.cause = s.cause)
    (hepc : t.epc = s.epc) (hfinst : t.finst = s.finst) : Ends i s :=
  .completed t hx ⟨.inl hstatus, hcause, hepc, hfinst⟩

theorem Ends.ofBranch {c : Raised Bool} {x : BitVec 8} (hx : exec i s = branchOn c x s) : Ends i s :=
  .plain (hx.trans (branchOn_eq c x s)) rfl rfl rfl rfl

end

/-- RSCL of either variant completes or faults by its check of the mantissa (R270). -/
theorem rsclOf_ends (v : Variant) (d : WReg) (a : DReg) (s : State) : Ends (rsclOf v d a) s := by
  cases h : rsclAdmits (s.readD a).hi with
  | true => exact .plain (exec_rsclOf_of_admits v d h) rfl rfl rfl rfl
  | false => exact .faulted .range (.rscl v d h) (exec_rsclOf_of_not_admits v d h)

/-- How each of the 42 instructions ends, on any state. -/
theorem exec_ends (i : Instr) (s : State) : Ends i s := by
  cases i with
  | halt => exact .completed _ rfl ⟨.inr rfl, rfl, rfl, rfl⟩
  | ldw r a =>
    cases h : s.dmemRead a.toNat with
    | none => exact .stopped a.toNat (.ldw r h) (exec_ldw_of_unwritten r h)
    | some v => exact .plain (exec_ldw_of_written r h) rfl rfl rfl rfl
  | ldd d a =>
    cases hodd : isOdd a with
    | true => exact .faulted .misaligned (.ldd d hodd) (exec_ldd_of_odd d hodd)
    | false =>
      cases hhi : s.dmemRead a.toNat with
      | none => exact .stopped a.toNat (.lddHi d hodd hhi) (exec_ldd_of_unwritten_hi d hodd hhi)
      | some hi =>
        cases hlo : s.dmemRead (a.toNat + 1) with
        | none => exact .stopped (a.toNat + 1) (.lddLo d hodd hlo) (exec_ldd_of_unwritten_lo d hodd hhi hlo)
        | some lo => exact .plain (exec_ldd_of_written d hodd hhi hlo) rfl rfl rfl rfl
  | std d a =>
    cases hodd : isOdd a with
    | true => exact .faulted .misaligned (.std d hodd) (exec_std_of_odd d hodd)
    | false => exact .plain (exec_std_of_even d hodd) (by simp) (by simp) (by simp) (by simp)
  | ddec wh wl a =>
    by_cases h : wh = wl
    · subst h
      exact .faulted .illegal (.ddec wh a) (exec_ddec_same wh a s)
    · exact .plain (exec_ddec_of_ne h a s) rfl rfl rfl rfl
  | rred d a =>
    cases h : rredAdmits (s.readD a).hi with
    | true => exact .plain (exec_rred_of_admits d h) rfl rfl rfl rfl
    | false => exact .faulted .range (.rred d h) (exec_rred_of_not_admits d h)
  | rsclP d a => exact rsclOf_ends .P d a s
  | rsclM d a => exact rsclOf_ends .M d a s
  | bflt | bfeq => exact .ofBranch rfl
  | _ => exact .plain rfl rfl rfl rfl rfl

/-- A running core's instruction that leaves STATUS FAULTED took a fault it has a reason for (R402). -/
theorem faults_of_exec {i : Instr} {s t : State} (hrun : s.status = .running) (h : exec i s = .next t)
    (hfault : t.status = .faulted) : ∃ c, Faults s i c ∧ t = s.takeFault c (encode i) := by
  cases exec_ends i s with
  | faulted c hc hx => exact ⟨c, hc, faultOf_eq_next.mp (hx.symm.trans h)⟩
  | stopped a _ hx => exact nomatch h.symm.trans hx
  | completed u hx hu =>
    obtain rfl := eq_of_next h hx
    obtain ⟨hkept | hhalted, -⟩ := hu
    · exact nomatch hfault.symm.trans (hkept.trans hrun)
    · exact nomatch hfault.symm.trans hhalted

/-! ### PC beyond IMEM (R401) -/

theorem step_of_no_host {s : State} (h : s.host = []) : step s = coreStep s := by simp [step, h]

theorem coreStep_of_fetch_error {s : State} {o : Out} (hrun : s.status = .running) (h : fetchDecode s = .error o) :
    coreStep s = o := by
  simp [coreStep, hrun, h]

theorem fetchDecode_of_beyond {s : State} (h : Config.imemWords ≤ s.pc.toNat) :
    fetchDecode s = .error (.next (s.takeFault .fetch 0)) := by
  simp [fetchDecode, h]

theorem fetchDecode_of_unwritten {s : State} (hpc : s.pc.toNat < Config.imemWords)
    (h : s.imemRead s.pc.toNat = none) : fetchDecode s = .error (.fault (.unwrittenImem s.pc.toNat)) := by
  simp [fetchDecode, Nat.not_le.mpr hpc, h]

theorem Update.keepsPc {s u : State} (h : Update s u) : u.pc = s.pc := by cases h <;> simp

/-- PC stays, goes to the next word, or goes to an address of IMEM (R48, R310). -/
theorem Completes.pc_cases {i : Instr} {s t : State} (h : Completes i s t) :
    t.pc = s.pc ∨ t.pc = s.pc + 1 ∨ t.pc.toNat < Config.imemWords := by
  cases h with
  | fault | halted => exact .inl rfl
  | cleared => exact .inr (.inl rfl)
  | jumped f x =>
    have hlt : x.toNat < 256 := x.isLt
    exact .inr (.inr (by simpa [Config.imemWords] using Nat.lt_of_le_of_lt (Nat.mod_le _ _) hlt))
  | advanced u f hu => exact .inr (.inl (by simp [hu.keepsPc]))

/-- Only the last word of IMEM is followed by an address beyond it (R401). -/
theorem pc_succ_beyond {p : BitVec 9} (h : p.toNat < 256) (h' : 256 ≤ (p + 1).toNat) : p = 255 ∧ p + 1 = 256 := by
  have hsucc : (p + 1).toNat = (p.toNat + 1) % 512 := BitVec.toNat_add p 1
  bv_omega

/-- The core changes PC by an instruction of IMEM that it runs, and a fault keeps it (R48, R402). -/
theorem coreStep_pc_cases {s t : State} (h : coreStep s = .next t) :
    t.pc = s.pc ∨ (s.status = .running ∧ t.pc = s.pc + 1) ∨ t.pc.toNat < Config.imemWords := by
  obtain ⟨-, rfl⟩ | ⟨hrun, -, _, _, -, -, hx⟩ | ⟨-, -, rfl⟩ | ⟨-, -, _, _, -, -, rfl⟩ := coreStep_eq_next h
  case inr.inl => exact (exec_completes hx).pc_cases.imp_right (.imp_left (⟨hrun, ·⟩))
  all_goals exact .inl rfl

theorem hostStore_pc_cases (s : State) (v : Half) (loc : HostLoc) :
    (s.hostStore v loc).pc = s.pc ∨ (s.hostStore v loc).pc = 0 ∨
      (loc = .pc ∧ (s.hostStore v loc).pc = v.setWidth 9) := by
  cases loc with
  | ctrl =>
    rw [State.hostStore]
    obtain ⟨-, h⟩ | ⟨-, -, -, h⟩ | h := s.command_cases v <;> rw [h]
    · exact .inr (.inl rfl)
    · exact .inl rfl
    · exact .inl rfl
  | pc => exact .inr (.inr ⟨rfl, rfl⟩)
  | _ => exact .inl rfl

/-- The host changes PC by SRESET and by a write at its offset (R55, R56). -/
theorem hostAccess_pc_cases {a : HostAccess} {s t : State} (h : hostAccess a s = .next t) :
    t.pc = s.pc ∨ t.pc = 0 ∨ ∃ v, a = .write 0x014 32 v ∧ t.pc = v.setWidth 9 := by
  obtain ⟨_, v, -, -, -, -, rfl⟩ | ⟨off, v, rfl, -, -, rfl⟩ := hostAccess_eq_next h
  · exact .inl rfl
  · refine (hostStore_pc_cases s v (hostLocAt off.toNat)).imp_right (.imp_right fun ⟨hloc, hpc⟩ => ?_)
    obtain rfl := (hostLocAt_eq_pc off).mp hloc
    exact ⟨v, rfl, hpc⟩

/-- A step that leaves a running core FAULTED is a move of the core: the host port and power-on take no fault (R51). -/
theorem step_faulted_cases {s t : State} (hrun : s.status = .running) (h : step s = .next t)
    (hfault : t.status = .faulted) : ∃ es, coreStep { s with host := es } = .next t := by
  obtain hcore | ⟨a, es, -, ha⟩ | ⟨es, -, rfl⟩ := step_movers h
  · exact hcore
  · obtain hkept | ⟨v, -, ⟨-, hidle⟩ | ⟨-, -, -, hstart⟩⟩ := hostAccess_status_cases ha
    · exact nomatch hfault.symm.trans (hkept.trans hrun)
    · exact nomatch hfault.symm.trans hidle
    · exact nomatch hfault.symm.trans hstart
  · exact nomatch hfault

/-- A core that runs inside IMEM takes no FETCH fault (R400). -/
theorem coreStep_cause_ne_fetch {s t : State} (hrun : s.status = .running) (hpc : s.pc.toNat < Config.imemWords)
    (h : coreStep s = .next t) (hfault : t.status = .faulted) : t.cause ≠ .fetch := by
  obtain ⟨hstopped, -⟩ | ⟨-, -, _, i, -, -, hx⟩ | ⟨-, hbeyond, -⟩ | ⟨-, -, _, _, -, -, rfl⟩ := coreStep_eq_next h
  · exact absurd hrun hstopped
  · obtain ⟨c, hc, rfl⟩ := faults_of_exec hrun hx hfault
    cases hc <;> exact nofun
  · exact absurd hpc hbeyond.not_gt
  · exact nofun

/-- Settles O6: the fetch's own check, the three ways PC can change, and the causes of a fault inside IMEM. -/
theorem fetchFaultExactlyBeyondImem : Obligations.FetchFaultExactlyBeyondImem := by
  refine ⟨fun s hrun hhost hpc => ?beyond, fun s t h hpc hpc' => ?leaves, fun s t hrun hpc h hfault => ?below⟩
  case beyond =>
    have hfetch := coreStep_of_fetch_error hrun (fetchDecode_of_beyond hpc)
    exact ⟨_, (step_of_no_host hhost).trans hfetch, takesFault_takeFault s .fetch 0⟩
  case leaves =>
    obtain ⟨es, hc⟩ | ⟨a, es, hhost, ha⟩ | ⟨es, -, rfl⟩ := step_movers h
    · obtain hkept | ⟨hrun, hnext⟩ | hinside := coreStep_pc_cases hc
      · exact absurd hpc (by simpa [hkept] using hpc')
      · obtain ⟨hlast, hbeyond⟩ := pc_succ_beyond hpc (hnext ▸ hpc')
        exact .inl ⟨hlast, hnext.trans hbeyond, hrun⟩
      · exact absurd hinside hpc'.not_gt
    · obtain hkept | hzero | ⟨v, rfl, hv⟩ := hostAccess_pc_cases ha
      · exact absurd hpc (by simpa [hkept] using hpc')
      · simp [hzero] at hpc'
      · exact .inr ⟨v, es, hhost, hv⟩
    · simp at hpc'
  case below =>
    obtain ⟨es, hc⟩ := step_faulted_cases hrun h hfault
    exact coreStep_cause_ne_fetch (s := { s with host := es }) hrun hpc hc hfault

/-! ### Instructions that fault or stop -/

/-- Settles O25: the fault is taken by fault entry, and its reason is one of `Faults`. -/
theorem faultingInstructionWritesNothing : Obligations.FaultingInstructionWritesNothing := by
  intro i s t hrun h hfault
  obtain ⟨c, hc, rfl⟩ := faults_of_exec hrun h hfault
  refine ⟨takesFault_takeFault s c (encode i), ?_⟩
  cases hc with
  | ldd d hodd => exact .inl ⟨rfl, d, _, hodd, .inl rfl⟩
  | std d hodd => exact .inl ⟨rfl, d, _, hodd, .inr rfl⟩
  | rred d hrange => exact .inr (.inl ⟨rfl, .inl ⟨d, _, rfl, hrange⟩⟩)
  | rscl v d hrange =>
    refine .inr (.inl ⟨rfl, .inr ?_⟩)
    cases v
    · exact .inl ⟨d, _, rfl, hrange⟩
    · exact .inr ⟨d, _, rfl, hrange⟩
  | ddec r a => exact .inr (.inr ⟨rfl, by simp [Instr.wf]⟩)

/-- Settles O26: every end of an instruction but the model's stop is a next state. -/
theorem execStopsOnlyOnUnwrittenDmem : Obligations.ExecStopsOnlyOnUnwrittenDmem := by
  intro i s
  cases exec_ends i s with
  | faulted c _ hx => exact .inl ⟨_, hx⟩
  | completed t hx _ => exact .inl ⟨t, hx⟩
  | stopped a h hx =>
    refine .inr ⟨a, hx, ?_⟩
    cases h with
    | ldw r h => exact ⟨h, .inl ⟨r, _, rfl, rfl⟩⟩
    | lddHi d heven h => exact ⟨h, .inr ⟨d, _, rfl, heven, .inl rfl⟩⟩
    | lddLo d heven h => exact ⟨h, .inr ⟨d, _, rfl, heven, .inr rfl⟩⟩

/-! ### The fault record (R400, R402) -/

/-- While no fault is recorded all three registers of the record are 0 (R52 to R54). -/
theorem State.faultRecord_of_not_faulted {s : State} (h : s.status ≠ .faulted) :
    s.faultRecord ↔ s.cause = .none ∧ s.epc = 0 ∧ s.finst = 0 := by
  cases hc : s.cause <;> simp [State.faultRecord, h, hc]

/-- The fault of a decoded instruction at a PC inside IMEM is one that its own word tells of. -/
theorem faultRecord_of_faults {s : State} {i : Instr} {c : Cause} (hpc : s.pc.toNat < Config.imemWords)
    (hdec : decode (encode i) = .ok i) (hwf : i.wf = true) (h : Faults s i c) :
    (s.takeFault c (encode i)).faultRecord := by
  refine ⟨?status, ?record⟩
  case status => cases h <;> simp
  case record =>
    cases h with
    | ldd d hodd => exact ⟨hpc, d, _, hodd, .inl hdec⟩
    | std d hodd => exact ⟨hpc, d, _, hodd, .inr hdec⟩
    | rred d => exact ⟨hpc, .inl ⟨d, _, hdec⟩⟩
    | rscl v d =>
      refine ⟨hpc, .inr ?_⟩
      cases v
      · exact .inl ⟨d, _, hdec⟩
      · exact .inr ⟨d, _, hdec⟩
    | ddec => simp [Instr.wf] at hwf

/-- A decoded instruction that a running core runs keeps the record: it takes a fault its word tells of, or none. -/
theorem exec_keepsFaultRecord {s t : State} {w : Half} {i : Instr} (hs : s.faultRecord) (hrun : s.status = .running)
    (hpc : s.pc.toNat < Config.imemWords) (hdec : decode w = .ok i) (h : exec i s = .next t) : t.faultRecord := by
  cases exec_ends i s with
  | faulted c hc hx =>
    obtain ⟨hwf, rfl⟩ := Laws.decodedWordIsItsEncoding w i hdec
    rw [faultOf_eq_next.mp (hx.symm.trans h)]
    exact faultRecord_of_faults hpc hdec hwf hc
  | stopped a _ hx => exact nomatch h.symm.trans hx
  | completed u hx hu =>
    obtain rfl := eq_of_next h hx
    obtain ⟨hstatus, hcause, hepc, hfinst⟩ := hu
    have hnone := (State.faultRecord_of_not_faulted (by simp [hrun])).mp hs
    have hnotFaulted : t.status ≠ .faulted := by obtain h | h := hstatus <;> simp [h, hrun]
    rw [State.faultRecord_of_not_faulted hnotFaulted, hcause, hepc, hfinst]
    exact hnone

theorem coreStep_keepsFaultRecord {s t : State} (hs : s.faultRecord) (h : coreStep s = .next t) :
    t.faultRecord := by
  obtain ⟨-, rfl⟩ | ⟨hrun, hpc, w, i, -, hdec, hx⟩ | ⟨-, hpc, rfl⟩ | ⟨-, hpc, w, e, -, hdec, rfl⟩ :=
    coreStep_eq_next h
  · exact hs
  · exact exec_keepsFaultRecord hs hrun hpc hdec hx
  · exact ⟨by simp, hpc, rfl⟩
  · exact ⟨by simp, hpc, e, hdec⟩

/-- SRESET and START clear the record, and no other write touches it (R55). -/
theorem hostStore_keepsFaultRecord {s : State} (hs : s.faultRecord) (v : Half) (loc : HostLoc) :
    (s.hostStore v loc).faultRecord := by
  cases loc with
  | ctrl =>
    rw [State.hostStore]
    obtain ⟨-, h⟩ | ⟨-, -, -, h⟩ | h := s.command_cases v <;> rw [h]
    · exact (State.faultRecord_of_not_faulted (by simp)).mpr ⟨rfl, rfl, rfl⟩
    · exact (State.faultRecord_of_not_faulted (by simp)).mpr ⟨rfl, rfl, rfl⟩
    · exact hs
  | _ => exact hs

theorem hostAccess_keepsFaultRecord {a : HostAccess} {s t : State} (hs : s.faultRecord)
    (h : hostAccess a s = .next t) : t.faultRecord := by
  obtain ⟨_, v, -, -, -, -, rfl⟩ | ⟨off, v, -, -, -, rfl⟩ := hostAccess_eq_next h
  · exact hs
  · exact hostStore_keepsFaultRecord hs v _

/-- Settles O19: the core records a fault only with the word that has it, the host port clears the whole record or
none of it, and power-on clears it. -/
theorem stepKeepsFaultRecord : Obligations.StepKeepsFaultRecord := by
  intro s t hs h
  obtain ⟨es, hc⟩ | ⟨a, es, -, ha⟩ | ⟨es, -, rfl⟩ := step_movers h
  · exact coreStep_keepsFaultRecord (s := { s with host := es }) hs hc
  · exact hostAccess_keepsFaultRecord (s := { s with host := es }) hs ha
  · exact (State.faultRecord_of_not_faulted (by simp)).mpr ⟨rfl, rfl, rfl⟩

/-! ### Stops of the model and a stopped core (R406, R424) -/

/-- A group of bytes has no value while one of them is unwritten (20_memory.md R89; log 2). -/
theorem Memory.readLE_eq_none {m : Memory} {a i n : Nat} (hi : i < n) (h : m.readByte (a + i) = none) :
    m.readLE a n = none := by
  induction n generalizing a i with
  | zero => exact absurd hi i.not_lt_zero
  | succ n ih =>
    cases i with
    | zero => simp [Memory.readLE, show m.readByte a = none from h]
    | succ i =>
      have hrest : m.readLE (a + 1) n = none := ih (Nat.lt_of_succ_lt_succ hi) (by rwa [Nat.add_right_comm])
      simp [Memory.readLE, hrest]

/-- A read of a stopped core stops the model where what its offset names has no value (R89; log 15). -/
theorem hostAccess_read_of_error {s : State} {off : BitVec 12} {e : Fault} (hoff : off.toNat % 4 = 0)
    (hs : s.status ≠ .running) (h : s.hostValue (hostLocAt off.toNat) = .error e) :
    hostAccess (.read off 32) s = .fault e := by
  have hform : hostWellFormed off 32 = true := hostWellFormed_iff.mpr ⟨rfl, hoff⟩
  simp [hostAccess, hform, hs, h]

theorem State.hostValue_imem_of_unwritten {s : State} {n : Nat} (h : s.imemRead n = none) :
    s.hostValue (.imem n) = .error (.unwrittenImem n) := by
  simp [State.hostValue, h]

theorem State.hostValue_dmem_of_unwritten {s : State} {n i : Nat} {upper : Bool} (hi : i < 4)
    (h : s.dmem.readByte (dmemHalfByte n upper + i) = none) :
    s.hostValue (.dmem n upper) = .error (.unwrittenDmem n) := by
  simp [State.hostValue, Memory.readLE_eq_none hi h]

/-- Settles O8: the fetch, the two loads, and the host's read by what its offset names. -/
theorem unwrittenReadStopsTheModel : Obligations.UnwrittenReadStopsTheModel := by
  refine ⟨fun s hrun hhost hpc h => ?fetch, fun s d a => exec_ldw_of_unwritten d,
    fun s d a => exec_ldd_of_unwritten_hi d, fun s d a v => exec_ldd_of_unwritten_lo d,
    fun s es off n hhost hs => ⟨fun ho h => ?imem, fun ho ⟨i, hi, h⟩ => ?low, fun ho ⟨i, hi, h⟩ => ?high⟩⟩
  case fetch =>
    rw [step_of_no_host hhost]
    exact coreStep_of_fetch_error hrun (fetchDecode_of_unwritten hpc h)
  all_goals
    rw [step_access hhost]
    refine hostAccess_read_of_error (by omega) hs ?_
  case imem =>
    rw [hostLocAt_imem n.isLt ho]
    exact State.hostValue_imem_of_unwritten h
  case low =>
    rw [hostLocAt_dmem n.isLt 0 ho]
    exact State.hostValue_dmem_of_unwritten (upper := false) hi h
  case high =>
    rw [hostLocAt_dmem n.isLt 1 (by omega)]
    exact State.hostValue_dmem_of_unwritten (upper := true) hi h

/-- Settles O9: with no host event the step is the core's, which stands still. -/
theorem stoppedCoreKeepsItsState : Obligations.StoppedCoreKeepsItsState := by
  intro s hs hhost
  rw [step_of_no_host hhost, coreStep, if_neg hs]

end Sys2Proof.Machine
end

section
/-! PROOFS. Stepping and reset (70_reset_and_hazards.md R500, R520): a running core runs the instruction it fetches, and
power-on leaves a stopped core with empty memories and no fault recorded. -/

namespace Sys2Proof.Machine

/-! ### The move of a running core -/

theorem coreStep_of_fetch_ok {s : State} {i : Instr} (hrun : s.status = .running) (h : fetchDecode s = .ok i) :
    coreStep s = exec i s := by
  simp [coreStep, hrun, h]

theorem step_of_idle {s : State} {es : List HostEvent} (h : s.host = .idle :: es) :
    step s = coreStep { s with host := es } := by
  simp [step, h]

/-- Settles O5: the core's move is `exec` of what it fetches, and the fetch does not see the host events. -/
theorem stepRunsTheDecodedInstruction : Obligations.StepRunsTheDecodedInstruction := by
  intro s w i hrun hpc hword hdec
  have hmove (es : List HostEvent) : coreStep { s with host := es } = exec i { s with host := es } :=
    coreStep_of_fetch_ok hrun (fetchDecode_eq_ok.mpr ⟨hpc, w, hword, hdec⟩)
  refine ⟨fun hhost => ?core, fun es hhost => ?idle⟩
  case core => exact (step_of_no_host hhost).trans (hmove s.host)
  case idle => exact (step_of_idle hhost).trans (hmove es)

/-! ### Power-on reset -/

theorem step_of_powerOn {s : State} {es : List HostEvent} (h : s.host = .powerOn :: es) :
    step s = .next (State.powerCycle { s with host := es }) := by
  simp [step, h]

/-- A memory in which nothing has been written gives no group of bytes a value (R89). -/
theorem Memory.readLE_nil (a n : Nat) : Memory.readLE [] a (n + 1) = none :=
  Memory.readLE_eq_none (i := 0) n.succ_pos rfl

section
variable {s : State}

theorem State.imemRead_of_imem_eq_nil (h : s.imem = []) (a : Nat) : s.imemRead a = none := by
  rw [State.imemRead, h, Memory.readLE_nil, Option.map_none]

theorem State.dmemRead_of_dmem_eq_nil (h : s.dmem = []) (a : Nat) : s.dmemRead a = none := by
  rw [State.dmemRead, h, Memory.readLE_nil, Option.map_none]

theorem State.wf_of_memories_eq_nil (himem : s.imem = []) (hdmem : s.dmem = []) : s.wf = true := by
  simp [State.wf, himem, hdmem, Memory.wf, Memory.within]

end

/-- Settles O17: the registers are those `State.powerOn` lists, and both memories are empty. -/
theorem powerOnResetState : Obligations.PowerOnResetState := by
  refine ⟨fun s es hhost => ⟨_, step_of_powerOn hhost, ?cycled⟩, ?reset⟩
  case cycled =>
    exact ⟨rfl, rfl, rfl, rfl, rfl, rfl, rfl, State.imemRead_of_imem_eq_nil rfl, State.dmemRead_of_dmem_eq_nil rfl,
      rfl, rfl⟩
  case reset =>
    exact ⟨rfl, rfl, rfl, rfl, rfl, rfl, rfl, State.imemRead_of_imem_eq_nil rfl, State.dmemRead_of_dmem_eq_nil rfl⟩

/-- Settles O20: empty memories are canonical, and an IDLE core has no fault to record. -/
theorem resetMeetsTheInvariants : Obligations.ResetMeetsTheInvariants := by
  have hidle : State.reset.status ≠ .faulted := nofun
  exact ⟨State.wf_of_memories_eq_nil rfl rfl, (State.faultRecord_of_not_faulted hidle).mpr ⟨rfl, rfl, rfl⟩⟩

end Sys2Proof.Machine
end
